-- ==== Sys2Proof/Word.lean ====
section
/-! DEFINITION. The word types of the machine (spec/00_scope.md R6, R7): nothing but names for bit vectors. -/

namespace Sys2Proof

/-- A byte of memory, and an opcode byte: 8 bits (R6). -/
abbrev Byte := BitVec 8

/-- The 32-bit register view, an address, an immediate, a program-counter cell (R5 `XLEN`). -/
abbrev Word := BitVec 32

/-- A nibble: a register index 0..15 or a shift count 0..15 (R101, R105), and the target pointer (R29). -/
abbrev Nibble := BitVec 4

end Sys2Proof
end

