-- ==== Sys2Proof/Config.lean ====
section
/-! DEFINITION. What bring-up fixes (spec/00_scope.md R5): the platform as plain data, the device records of
spec/20_memory.md R70, and, as opaque constants, the handlers of external devices, which the spec leaves to the
platform (93_implementation_defined.md U3, U9, U10). The decided parameters of R5 (`W = 32`, reset-and-halt RST, the
skip of an untaken jump's immediate) have their one value in the rules that use them. -/

namespace Sys2Proof

/-- What one external device remembers, `dev[k]` (R36): the pending flag the arbiter polls, and everything else as one
number that only the device's own handlers read (any countable device state can be written as a number). -/
structure DevState where
  pending : Bool
  inner : Nat
deriving DecidableEq, Repr, Inhabited

/-- Which handlers a device has. -/
inductive DeviceKind where
  /-- The test device `TDEV` of spec/95_test_vectors.md; without a vector it is no interrupt source. Log 5. -/
  | testDevice (vector : Option Word) (countdown : Nat)
  /-- An external device whose handlers are the opaque constants below, picked out by `id`; `interrupts` says whether
  it has the optional interrupt pair of R70. Log 4. -/
  | external (id : Nat) (interrupts : Bool)
deriving DecidableEq, Repr

/-- A device record (R70): its name, its claimed range, its handlers, and the state its configuration leaves it in, to
which power-on applies its reset handler (log 12). -/
structure Device where
  name : String
  start : Word
  length : Nat
  kind : DeviceKind
  configured : DevState
deriving DecidableEq, Repr

/-- The configuration, which never changes after bring-up (R5; 10_state.md, the tuple at its head). `scanOrder` lists
the device indices the arbiter looks at first; the other devices follow in the order of `devices` (D15, log 6). -/
structure Platform where
  ramSize : Nat
  image : List Byte
  devices : List Device
  pcWindow : Option Word
  cpuWindow : Option Word
  scanOrder : List Nat
deriving DecidableEq, Repr

/-- The reference test platform of spec/95_test_vectors.md: `RAM_SIZE = 0x1_0000`, no window, no device; the image is
empty here. DESIGN CHOICE for `State.reset`: the spec leaves every one of these open (log 2). -/
def Platform.reference : Platform where
  ramSize := 65536
  image := []
  devices := []
  pcWindow := none
  cpuWindow := none
  scanOrder := []

namespace Config

/-- External device `id`: its `tick()` (R70, R133). No body: nothing can be proved of what it does. -/
opaque externalTick (id : Nat) (d : DevState) : DevState

/-- External device `id`: its `reset()` (R70, R251). -/
opaque externalReset (id : Nat) (d : DevState) : DevState

/-- External device `id`: `readByte(o)`; `none` is a device fault (R65, R70). -/
opaque externalReadByte (id : Nat) (d : DevState) (o : Nat) : Option (Byte × DevState)

/-- External device `id`: `readInteger(o)`; `none` is a device fault (R65, R70). -/
opaque externalReadInteger (id : Nat) (d : DevState) (o : Nat) : Option (Word × DevState)

/-- External device `id`: `writeByte(o, b)`; `none` is a device fault (R65, R70). -/
opaque externalWriteByte (id : Nat) (d : DevState) (o : Nat) (b : Byte) : Option DevState

/-- External device `id`: `writeInteger(o, v)`; `none` is a device fault (R65, R70). -/
opaque externalWriteInteger (id : Nat) (d : DevState) (o : Nat) (v : Word) : Option DevState

/-- External device `id`: the vector it answers and what it then remembers; that its pending flag is cleared is R71's
and is done by the caller. -/
opaque externalVector (id : Nat) (d : DevState) : Word × Nat

end Config

end Sys2Proof
end

