-- ==== Sys2Proof/Machine/State.lean ====
section
/-! DEFINITION. The state of the machine (spec/10_state.md): the tuple at the head of that file, as plain data; the
reasons a step stops; and the state after reset (R45). -/

namespace Sys2Proof.Machine

/-- One register (R20): an accumulator of `w` bits and its own carry and overflow flags. The machine has `w = 32`
(D1); the width is a parameter of the primitives only, as R21 and R160 write them. -/
structure Reg (w : Nat) where
  acc : BitVec w
  carry : Bool
  overflow : Bool
deriving DecidableEq, Repr

/-- A register of the machine: a 32-bit accumulator (R21, decision D1). -/
abbrev Register := Reg 32

/-- A cleared register (R45). -/
def Register.cleared : Register := ⟨0, false, false⟩

/-- Which access an AddressError is about (R262). -/
inductive AccessKind where
  /-- The opcode byte. -/
  | fetch
  /-- The 4 bytes of a wide immediate. -/
  | immediate
  /-- The data read of LDR. -/
  | read
  /-- The data write of STR and STN. -/
  | write
  /-- An access that a device refused. -/
  | deviceFault
deriving DecidableEq, Repr

/-- A run-time fatal error, the content of `fatal` (R38, R261, R262). -/
inductive FatalError where
  /-- A fetched byte matches no opcode; unreachable with the catalogue of R108 (R110). -/
  | decodeError (address : Word) (byte : Byte)
  /-- An access that the router can send neither to RAM nor to a device, or that a device refuses. -/
  | addressError (address : Word) (width : Nat) (kind : AccessKind)
deriving DecidableEq, Repr

/-- The RAM byte store: the cells that differ from what an unlisted address reads as, addresses strictly rising. -/
abbrev Memory := List Host.Cell

/-- The whole state of the core and its configuration (10_state.md). -/
structure State where
  /-- `acc[i]`, `C[i]`, `V[i]` (R20, R21, R27). -/
  regs : Vector Register 16
  /-- `T`, the target pointer (R29). -/
  target : Nibble
  /-- `pc.current` (R30). -/
  pcCurrent : Word
  /-- `pc.next` (R30). -/
  pcNext : Word
  /-- `ram` (R34). -/
  ram : Memory
  /-- `dev[k]` (R36). -/
  dev : List DevState
  /-- `running` (R37). -/
  running : Bool
  /-- `fatal` (R38). -/
  fatal : Option FatalError
  /-- The configuration, fixed by bring-up (R5). -/
  platform : Platform
deriving DecidableEq, Repr

/-- Why there is no step (R131, 93_implementation_defined.md U7, U17). No instruction raises either. -/
inductive Fault where
  /-- Raised by `step` and by `environment`: a fatal error is recorded, so no tick happens and the clock cannot be
  started (R131, R264, R50). Safe: the model stops where the spec says that the machine has stopped for good. -/
  | fatalError (e : FatalError)
  /-- Raised by `step`: the clock is stopped, so no tick happens until an external `start` (R131, R37). Safe: the
  machine does nothing either. -/
  | clockStopped
deriving DecidableEq, Repr

/-- Why an instruction is refused. -/
inductive Refusal where
  /-- Raised by an arm of `exec` whose instruction has no meaning yet; every instruction has its meaning, so no arm
  raises it. Safe. -/
  | notModelled (mnemonic : String)
deriving DecidableEq, Repr

/-- The state after bring-up and before the first tick (R45) on the reference test platform of 95_test_vectors.md
(log 2): registers, flags, target pointer and program counter zero, RAM zero, clock stopped, no fatal error. -/
def State.reset : State where
  regs := Vector.replicate 16 Register.cleared
  target := 0
  pcCurrent := 0
  pcNext := 0
  ram := []
  dev := []
  running := false
  fatal := none
  platform := Platform.reference

end Sys2Proof.Machine
end

