-- ==== Sys2Proof/Machine/Flags.lean ====
section
/-! DEFINITION. Every flag and condition of the spec (spec/10_state.md R26, R28; spec/41_alu_primitives.md R163 to
R166, R173). -/

namespace Sys2Proof.Machine

/-- `inrange32(z)`: the exact result lies in the signed 32-bit range (R7). -/
def inRange32 (z : Int) : Bool := decide (-(2 ^ 31) ≤ z) && decide (z ≤ 2 ^ 31 - 1)

/-- The flag that reports an exact result outside the signed 32-bit range: carry for addition and subtraction,
overflow for multiplication and division (R28). -/
def rangeFlag (z : Int) : Bool := !inRange32 z

/-- `Z(i)`: the stored accumulator is zero (R26, R173). -/
def Reg.isZero {w : Nat} (r : Reg w) : Bool := decide (r.acc.toInt = 0)

/-- `N(i)`: the stored accumulator is negative (R26, R173). -/
def Reg.isNegative {w : Nat} (r : Reg w) : Bool := decide (r.acc.toInt < 0)

end Sys2Proof.Machine
end

