-- ==== Sys2Proof/Machine/Operands.lean ====
section
/-! DEFINITION. The operand forms (spec/30_encoding.md R105, R106; spec/10_state.md R22; spec/20_memory.md R60): the
32-bit view of a register as a signed integer and as an address, the immediate as a number and as an address, and the
byte-wise replacement the core-local windows use. -/

namespace Sys2Proof.Machine

/-- `get()`: the 32-bit truncated view of a register (R22, R162). -/
def Reg.view {w : Nat} (r : Reg w) : Word := r.acc.setWidth 32

/-- Register `r` of the file (R20). -/
def State.reg (s : State) (r : Nibble) : Register := s.regs[r.toNat]'r.isLt

/-- `x[r]`, the view of register `r` (R22), as a bit pattern; as an address it is `u_32(x[r])` (R60). -/
def State.view (s : State) (r : Nibble) : Word := (s.reg r).view

/-- `x[r]` as the signed 32-bit integer that an arithmetic operand is (R7, R22). -/
def State.signedView (s : State) (r : Nibble) : Int := (s.view r).toInt

/-- `u_32(x[T])`: the data of STR and STN (R201, R203). -/
def State.targetView (s : State) : Word := s.view s.target

/-- `$TARGET`, the register the target pointer names (R29). -/
def State.targetReg (s : State) : Register := s.reg s.target

/-- `$RETURN` is register 15 (R24). -/
def returnIndex : Nibble := 15

/-- `v` with its big-endian byte `k` (0..3) replaced by `b` (R40, R42). -/
def replaceByte (v : Word) (k : Nat) (b : Byte) : Word :=
  (v &&& ~~~(255#32 <<< (24 - 8 * k))) ||| (b.setWidth 32 <<< (24 - 8 * k))

end Sys2Proof.Machine
end

