-- ==== Sys2Proof/Machine/Alu.lean ====
section
/-! DEFINITION. The primitives of one register (spec/41_alu_primitives.md R160 to R172), written as that file writes
them: exact integers, narrowed at the end, for any stored width `w`; the machine uses them at `w = 32` (D1). Each
writes accumulator, carry and overflow together (R160). -/

namespace Sys2Proof.Machine

/-- A register holding `wrap_w z` with both flags clear, the shape of every primitive that reports nothing (R161,
R167 to R172). -/
def Reg.ofExact {w : Nat} (z : Int) : Reg w := ⟨BitVec.ofInt w z, false, false⟩

/-- `set(v)`: stores v, clears both flags (R161). -/
def Reg.set {w : Nat} (v : Int) : Reg w := Reg.ofExact v

/-- `addTo(d)`: carry iff the exact sum leaves the signed 32-bit range, overflow cleared (R163). -/
def Reg.addTo {w : Nat} (r : Reg w) (d : Int) : Reg w :=
  ⟨BitVec.ofInt w (r.acc.toInt + d), rangeFlag (r.acc.toInt + d), false⟩

/-- `subtract(d)`: `addTo` of the exact negation (R164, D4). -/
def Reg.subtract {w : Nat} (r : Reg w) (d : Int) : Reg w := r.addTo (-d)

/-- `multiplyBy(d)`: overflow iff the exact product leaves the signed 32-bit range, carry cleared (R165). -/
def Reg.multiplyBy {w : Nat} (r : Reg w) (d : Int) : Reg w :=
  ⟨BitVec.ofInt w (r.acc.toInt * d), false, rangeFlag (r.acc.toInt * d)⟩

/-- `divideBy(d)`: by zero the value stays and both flags are set; else the quotient truncated toward zero, carry
cleared, overflow iff out of range (R166). -/
def Reg.divideBy {w : Nat} (r : Reg w) (d : Int) : Reg w :=
  if d = 0 then ⟨r.acc, true, true⟩
  else ⟨BitVec.ofInt w (r.acc.toInt.tdiv d), false, rangeFlag (r.acc.toInt.tdiv d)⟩

/-- `complement()`: bitwise NOT over the stored width (R167). -/
def Reg.complement {w : Nat} (r : Reg w) : Reg w := Reg.ofExact (-r.acc.toInt - 1)

/-- `negate()`: arithmetic negation (R168). -/
def Reg.negate {w : Nat} (r : Reg w) : Reg w := Reg.ofExact (-r.acc.toInt)

/-- `shiftLeft(n)`: logical left shift over the stored width (R169). -/
def Reg.shiftLeft {w : Nat} (r : Reg w) (n : Nat) : Reg w := Reg.ofExact (r.acc.toInt * 2 ^ n)

/-- `shiftRight(n)`: logical right shift, zeros entering at the top of the stored width (R170). -/
def Reg.shiftRight {w : Nat} (r : Reg w) (n : Nat) : Reg w := Reg.ofExact ((r.acc.toNat / 2 ^ n : Nat) : Int)

/-- `signedShiftRight(n)`: arithmetic right shift, rounding toward minus infinity (R171). -/
def Reg.signedShiftRight {w : Nat} (r : Reg w) (n : Nat) : Reg w := Reg.ofExact (r.acc.toInt / 2 ^ n)

/-- `and(v)`: bitwise, v sign-extended to the stored width (R172). -/
def Reg.andWith {w : Nat} (r : Reg w) (v : Int) : Reg w := ⟨r.acc &&& BitVec.ofInt w v, false, false⟩

/-- `or(v)` (R172). -/
def Reg.orWith {w : Nat} (r : Reg w) (v : Int) : Reg w := ⟨r.acc ||| BitVec.ofInt w v, false, false⟩

/-- `xor(v)` (R172). -/
def Reg.xorWith {w : Nat} (r : Reg w) (v : Int) : Reg w := ⟨r.acc ^^^ BitVec.ofInt w v, false, false⟩

end Sys2Proof.Machine
end

