-- ==== Sys2Proof/Syntax.lean ====
section
/-! DEFINITION. The 31 instructions of spec/opcode_table.json, one constructor a row, in the table's order
(spec/30_encoding.md R108, R109). -/

namespace Sys2Proof

/-- An instruction with its operand: `r` a register index, `n` a shift count, `d` a 32-bit immediate (R105, R106). -/
inductive Instr where
  /-- SEL r: select the target register (R190). -/
  | sel (r : Nibble)
  /-- LDR r: load `$TARGET` from the word whose address is in register r (R200). -/
  | ldr (r : Nibble)
  /-- STR r: store `$TARGET` to the word whose address is in register r (R201). -/
  | str (r : Nibble)
  /-- JR r: jump to the address in register r (R231). -/
  | jr (r : Nibble)
  /-- CP r: copy `$TARGET` into register r (R191). -/
  | cp (r : Nibble)
  /-- AND r (R210). -/
  | and (r : Nibble)
  /-- OR r (R211). -/
  | or (r : Nibble)
  /-- XOR r (R212). -/
  | xor (r : Nibble)
  /-- ADD r (R213). -/
  | add (r : Nibble)
  /-- SUB r (R214). -/
  | sub (r : Nibble)
  /-- MUL r (R215). -/
  | mul (r : Nibble)
  /-- DIV r (R216). -/
  | div (r : Nibble)
  /-- SHL n: shift `$TARGET` left (R220). -/
  | shl (n : Nibble)
  /-- SHR n: shift `$TARGET` right, logical (R221). -/
  | shr (n : Nibble)
  /-- SSR n: shift `$TARGET` right, arithmetic (R222). -/
  | ssr (n : Nibble)
  /-- LDN d: load the immediate number into `$TARGET` (R202). -/
  | ldn (d : Word)
  /-- STN d: store `$TARGET` to the word at the absolute address d (R203). -/
  | stn (d : Word)
  /-- J d: unconditional jump (R232). -/
  | j (d : Word)
  /-- JZ d: jump if `$TARGET` is zero (R233). -/
  | jz (d : Word)
  /-- JN d: jump if `$TARGET` is negative (R234). -/
  | jn (d : Word)
  /-- JC d: jump if `$TARGET`'s carry flag is set (R235). -/
  | jc (d : Word)
  /-- JV d: jump if `$TARGET`'s overflow flag is set (R236). -/
  | jv (d : Word)
  /-- COM: complement `$TARGET` (R240). -/
  | com
  /-- NEG: negate `$TARGET` (R241). -/
  | neg
  /-- INC: add 1 to `$TARGET` (R242). -/
  | inc
  /-- DEC: subtract 1 from `$TARGET` (R243). -/
  | dec
  /-- CLR: clear `$TARGET` (R244). -/
  | clr
  /-- UNO: set `$TARGET` to one (R245). -/
  | uno
  /-- NOP: no operation (R250). -/
  | nop
  /-- RST: reset the system and stop the clock (R251). -/
  | rst
  /-- HLT: stop the clock (R252). -/
  | hlt
deriving DecidableEq, Repr

end Sys2Proof
end

