-- ==== Sys2Proof/Decode.lean ====
section
/-! DEFINITION. Decoding and encoding (spec/30_encoding.md): the two-step catalogue lookup of R107, total on any bytes,
and after it the encoder, both written from the opcode map of R108. -/

namespace Sys2Proof

/-- The encoding kind of a catalogue entry, with the instruction it makes of its operand (R100, R105, R106). -/
inductive Form where
  /-- Format N: the operand is the low nibble of the opcode byte (R101). -/
  | nibble (make : Nibble → Instr)
  /-- Format Z: no operand (R102). -/
  | zero (instr : Instr)
  /-- Format W: a 32-bit big-endian immediate follows (R103). -/
  | wide (make : Word → Instr)

/-- Why bytes do not decode. -/
inductive DecodeRefusal where
  /-- There is no opcode byte at all. -/
  | noOpcodeByte
  /-- The opcode byte matches no entry, exact or masked (R107); with the catalogue of R108 this never happens (R110). -/
  | unknownOpcode (b : Byte)
  /-- A wide-immediate opcode with fewer than 4 bytes after it (R103). -/
  | truncatedImmediate (b : Byte)
deriving DecidableEq, Repr

/-- The catalogue of 31 entries: base byte and form (R107, R108). -/
def catalogue : List (Byte × Form) :=
  [ (0x00, .nibble .sel), (0x10, .nibble .ldr), (0x20, .nibble .str), (0x30, .nibble .jr),
    (0x40, .nibble .cp), (0x50, .nibble .and), (0x60, .nibble .or), (0x70, .nibble .xor),
    (0x80, .nibble .add), (0x90, .nibble .sub), (0xA0, .nibble .mul), (0xB0, .nibble .div),
    (0xC0, .nibble .shl), (0xD0, .nibble .shr), (0xE0, .nibble .ssr),
    (0xF0, .wide .ldn), (0xF1, .wide .stn), (0xF2, .wide .j), (0xF3, .wide .jz),
    (0xF4, .wide .jn), (0xF5, .wide .jc), (0xF6, .wide .jv),
    (0xF7, .zero .com), (0xF8, .zero .neg), (0xF9, .zero .inc), (0xFA, .zero .dec),
    (0xFB, .zero .clr), (0xFC, .zero .uno), (0xFD, .zero .nop), (0xFE, .zero .rst), (0xFF, .zero .hlt) ]

/-- The first entry whose base byte is `b`. -/
def lookupBase (b : Byte) : List (Byte × Form) → Option Form
  | [] => none
  | (base, form) :: rest => if base = b then some form else lookupBase b rest

/-- R107: exact match first, then the byte with its low nibble masked to zero. -/
def lookupOpcode (b : Byte) : Option Form :=
  match lookupBase b catalogue with
  | some form => some form
  | none => lookupBase (b &&& 0xF0#8) catalogue

/-- The operand nibble `b[3:0]` (R105). -/
def operandNibble (b : Byte) : Nibble := b.setWidth 4

/-- Four bytes as one 32-bit value, the first the most significant (R61, R103). -/
def wordOfBytes (b0 b1 b2 b3 : Byte) : Word := b0 ++ b1 ++ b2 ++ b3

/-- Big-endian byte `k` (0..3) of a word, `v[31-8k : 24-8k]` (R61, R62). -/
def byteOfWord (v : Word) (k : Nat) : Byte := v.extractLsb' (24 - 8 * k) 8

/-- Decode the instruction at the head of a byte sequence, and give back the bytes after it (R107, R103, R104). -/
def decode : List Byte → Except DecodeRefusal (Instr × List Byte)
  | [] => .error .noOpcodeByte
  | b :: rest =>
    match lookupOpcode b with
    | none => .error (.unknownOpcode b)
    | some (.nibble make) => .ok (make (operandNibble b), rest)
    | some (.zero i) => .ok (i, rest)
    | some (.wide make) =>
      match rest with
      | b0 :: b1 :: b2 :: b3 :: rest' => .ok (make (wordOfBytes b0 b1 b2 b3), rest')
      | _ => .error (.truncatedImmediate b)

/-- A format N instruction: family in the high nibble, operand in the low one (R101). -/
def encodeNibble (family operand : Nibble) : List Byte := [family ++ operand]

/-- A format W instruction: opcode byte, then the immediate big-endian (R103). -/
def encodeWide (opcode : Byte) (d : Word) : List Byte :=
  [opcode, byteOfWord d 0, byteOfWord d 1, byteOfWord d 2, byteOfWord d 3]

/-- The bytes of an instruction, the first at the lowest address (R108). -/
def encode : Instr → List Byte
  | .sel r => encodeNibble 0x0 r
  | .ldr r => encodeNibble 0x1 r
  | .str r => encodeNibble 0x2 r
  | .jr r => encodeNibble 0x3 r
  | .cp r => encodeNibble 0x4 r
  | .and r => encodeNibble 0x5 r
  | .or r => encodeNibble 0x6 r
  | .xor r => encodeNibble 0x7 r
  | .add r => encodeNibble 0x8 r
  | .sub r => encodeNibble 0x9 r
  | .mul r => encodeNibble 0xA r
  | .div r => encodeNibble 0xB r
  | .shl n => encodeNibble 0xC n
  | .shr n => encodeNibble 0xD n
  | .ssr n => encodeNibble 0xE n
  | .ldn d => encodeWide 0xF0 d
  | .stn d => encodeWide 0xF1 d
  | .j d => encodeWide 0xF2 d
  | .jz d => encodeWide 0xF3 d
  | .jn d => encodeWide 0xF4 d
  | .jc d => encodeWide 0xF5 d
  | .jv d => encodeWide 0xF6 d
  | .com => [0xF7]
  | .neg => [0xF8]
  | .inc => [0xF9]
  | .dec => [0xFA]
  | .clr => [0xFB]
  | .uno => [0xFC]
  | .nop => [0xFD]
  | .rst => [0xFE]
  | .hlt => [0xFF]

/-- The opcode bytes that a 32-bit immediate follows (R104). -/
def isWideOpcode (b : Byte) : Bool := decide (0xF0 ≤ b.toNat) && decide (b.toNat ≤ 0xF6)

/-- The five bytes of a number, least significant first. -/
def fiveBytes (w : Nat) : List Byte :=
  [BitVec.ofNat 8 w, BitVec.ofNat 8 (w / 2 ^ 8), BitVec.ofNat 8 (w / 2 ^ 16), BitVec.ofNat 8 (w / 2 ^ 24),
    BitVec.ofNat 8 (w / 2 ^ 32)]

/-- The bytes, lowest address first, of an instruction given as a number of `nbits` bits with the bits above it zero.
Bit 0 is the least significant bit of the first byte and later bytes count on from it; a 40-bit number that holds no
wide opcode there but one in its top byte is taken as opcode_table.json prints its 40-bit rows, the opcode in bits
39:32 (R103). Log 10. -/
def tableBytes (nbits w : Nat) : List Byte :=
  let v := w % 2 ^ nbits
  if nbits = 40 ∧ isWideOpcode (BitVec.ofNat 8 v) = false ∧ isWideOpcode (BitVec.ofNat 8 (v / 2 ^ 32)) = true then
    (fiveBytes v).reverse
  else fiveBytes v

/-- The instruction the decoder reads from a number of `nbits` bits laid out in bytes. -/
def decodeTableWord (nbits w : Nat) : Option Instr :=
  match decode (tableBytes nbits w) with
  | .ok (i, _) => some i
  | .error _ => none

end Sys2Proof
end

