-- ==== Sys2Proof/Machine/Devices.lean ====
section
/-! DEFINITION. The device contract (spec/20_memory.md R70, R71): one definition per member of the capability set, for
the test device of spec/95_test_vectors.md and for external devices, whose handlers are Config's opaque constants. -/

namespace Sys2Proof

/-- The state `(n, p, last)` of a test device. -/
def testState (n : Nat) (p : Bool) (last : Word) : DevState := ⟨p, n * 2 ^ 32 + last.toNat⟩

/-- The countdown `n` of a test device. -/
def testCount (d : DevState) : Nat := d.inner / 2 ^ 32

/-- The word `last` of a test device. -/
def testLast (d : DevState) : Word := BitVec.ofNat 32 d.inner

/-- The device claims address `a` (R63). -/
def Device.claims (d : Device) (a : Nat) : Bool := decide (d.start.toNat ≤ a) && decide (a < d.start.toNat + d.length)

/-- The device has the optional interrupt pair (R70, R267). -/
def Device.interrupts (d : Device) : Bool :=
  match d.kind with
  | .testDevice vector _ => vector.isSome
  | .external _ interrupts => interrupts

/-- `tick()` (R70, R133). -/
def Device.tick (d : Device) (st : DevState) : DevState :=
  match d.kind with
  | .testDevice _ _ =>
    match testCount st with
    | 0 => st
    | n + 1 => testState n (st.pending || decide (n = 0)) (testLast st)
  | .external id _ => Config.externalTick id st

/-- `reset()` (R70, R251). -/
def Device.reset (d : Device) (st : DevState) : DevState :=
  match d.kind with
  | .testDevice _ countdown => testState countdown false 0
  | .external id _ => Config.externalReset id st

/-- The device's configured initial state (R45, R300): what `reset()`, which power-on reset calls (R70), makes of the
state the configuration left. DESIGN CHOICE (log 12). -/
def Device.initial (d : Device) : DevState := d.reset d.configured

/-- `readByte(o)`; `none` is a device fault (R70). A test device answers its last byte at every offset above 3, which the
spec's `TDEV`, whose length is 4, does not have: DESIGN CHOICE (log 5). -/
def Device.readByte (d : Device) (st : DevState) (o : Nat) : Option (Byte × DevState) :=
  match d.kind with
  | .testDevice _ _ => some (byteOfWord (testLast st) o, st)
  | .external id _ => Config.externalReadByte id st o

/-- `readInteger(o)`; `none` is a device fault (R70). A test device refuses every offset but 0, those above 3, which the
spec's `TDEV` does not have, included: DESIGN CHOICE (log 5). -/
def Device.readInteger (d : Device) (st : DevState) (o : Nat) : Option (Word × DevState) :=
  match d.kind with
  | .testDevice _ _ => if o = 0 then some (testLast st, st) else none
  | .external id _ => Config.externalReadInteger id st o

/-- `writeByte(o, b)`; `none` is a device fault (R70). A test device replaces its last byte at every offset above 3:
DESIGN CHOICE (log 5). -/
def Device.writeByte (d : Device) (st : DevState) (o : Nat) (b : Byte) : Option DevState :=
  match d.kind with
  | .testDevice _ _ => some (testState (testCount st) st.pending (Machine.replaceByte (testLast st) o b))
  | .external id _ => Config.externalWriteByte id st o b

/-- `writeInteger(o, v)`; `none` is a device fault (R70). A test device refuses every offset but 0, those above 3
included: DESIGN CHOICE (log 5). -/
def Device.writeInteger (d : Device) (st : DevState) (o : Nat) (v : Word) : Option DevState :=
  match d.kind with
  | .testDevice _ _ => if o = 0 then some (testState (testCount st) st.pending v) else none
  | .external id _ => Config.externalWriteInteger id st o v

/-- The vector a source answers; `none` for a device that is no source (R70). -/
def Device.vector (d : Device) (st : DevState) : Option (Word × Nat) :=
  match d.kind with
  | .testDevice vector _ => vector.map fun v => (v, st.inner)
  | .external id interrupts => if interrupts then some (Config.externalVector id st) else none

/-- `readVector()`: the vector, and the device with its pending flag cleared (R70, R71). -/
def Device.readVector (d : Device) (st : DevState) : Option (Word × DevState) :=
  (d.vector st).map fun (v, inner) => (v, ⟨false, inner⟩)

end Sys2Proof
end

