-- ==== Sys2Proof/Machine/Ops.lean ====
section
/-! DEFINITION. The named operations on the state: register writes, the target pointer, the program counter, raising a
fatal error (spec/00_scope.md R10), the broadcast (spec/40_tick_fetch_decode.md R132, R133), the arbiter and interrupt
entry (spec/60_exceptions.md R269 to R272), and the return beside it. -/

namespace Sys2Proof.Machine

/-- Write register `r` whole: accumulator, carry and overflow together (R27, R160). -/
def State.setReg (s : State) (r : Nibble) (x : Register) : State :=
  { s with regs := s.regs.set r.toNat x r.isLt }

/-- `x[r] <- v` by `set` (R8, R161). -/
def State.setValue (s : State) (r : Nibble) (v : Int) : State := s.setReg r (Reg.set v)

/-- Apply a primitive to `$TARGET` (R160). -/
def State.setTarget (s : State) (x : Register) : State := s.setReg s.target x

/-- `T <- r` (R29, R190). -/
def State.select (s : State) (r : Nibble) : State := { s with target := r }

/-- `pc <- target`: the one form of control transfer, a write of `pc.next` (R8, R230). With the address in register 15
it is the return from an interrupt: the spec has no other return, and no state to restore (R275). -/
def State.jump (s : State) (a : Word) : State := { s with pcNext := a }

/-- The skip of a wide immediate: `pc.next <- u_32(pc.next + 4)` (R137). -/
def State.skipImmediate (s : State) : State := { s with pcNext := s.pcNext + 4 }

/-- `running <- 0` (R37). -/
def State.halt (s : State) : State := { s with running := false }

/-- Replace the RAM byte store. -/
def State.setRam (s : State) (m : Memory) : State := { s with ram := m }

/-- Replace the state of device `k` (R36). -/
def State.setDev (s : State) (k : Nat) (d : DevState) : State := { s with dev := s.dev.set k d }

/-- `raise e`: record the fatal error and leave every mutation the tick has made in place (R10, R140, R264). -/
def State.raise (s : State) (e : FatalError) : State := { s with fatal := some e }

/-- Device `k` of the platform with its present state (R36). -/
def State.device? (s : State) (k : Nat) : Option (Device × DevState) :=
  match s.platform.devices[k]?, s.dev[k]? with
  | some d, some st => some (d, st)
  | _, _ => none

/-- Phase 1 of a tick: the program-counter unit's tick and every external device's (R132, R133). -/
def State.broadcast (s : State) : State :=
  { s with
    pcCurrent := s.pcNext
    pcNext := s.pcNext + 1
    dev := List.zipWith Device.tick s.platform.devices s.dev }

/-- Device `k` is an interrupt source with its pending flag set (R267, R268). -/
def State.sourcePending (s : State) (k : Nat) : Bool :=
  match s.device? k with
  | some (d, st) => d.interrupts && st.pending
  | none => false

/-- The order in which the arbiter scans: the listed devices first, then all in the order of `DEVICES` (R270, D15;
log 6). -/
def Platform.scanList (p : Platform) : List Nat := p.scanOrder ++ List.range p.devices.length

/-- Arbitration: the first source found pending (R134, R269, R270). -/
def State.arbitrate (s : State) : Option Nat := (Platform.scanList s.platform).find? s.sourcePending

/-- Interrupt entry for device `k`, the one operation that takes a trap: `pc.next` into register 15 by `set`, the
vector read (which clears the pending flag), `pc.next` at the vector; nothing else (R272). -/
def State.interruptEntry (s : State) (k : Nat) : State :=
  let saved := s.setValue returnIndex s.pcNext.toInt
  match s.device? k with
  | some (d, st) =>
    match d.readVector st with
    | some (vec, st') => (saved.setDev k st').jump vec
    | none => saved
  | none => saved

/-- What RST installs: registers, flags, target pointer and program counter at their reset values, every external
device's `reset()`, the clock stopped; RAM and `fatal` untouched (R251, D11). -/
def State.resetCore (s : State) : State :=
  { s with
    regs := Vector.replicate 16 Register.cleared
    target := 0
    pcCurrent := 0
    pcNext := 0
    dev := List.zipWith Device.reset s.platform.devices s.dev
    running := false }

end Sys2Proof.Machine
end

