-- ==== Sys2Proof/Machine/AluRegister.lean ====
section
/-! DEFINITION. AND, OR, XOR, ADD, SUB, MUL, DIV (spec/44_alu_register.md): one primitive applied to register T with
the view of register r, which is read before the result is written. -/

namespace Sys2Proof.Machine

/-- AND r (R210). -/
def execAnd (r : Nibble) (s : State) : Host.Outcome State Fault Refusal :=
  .next (s.setTarget (s.targetReg.andWith (s.signedView r)))

/-- OR r (R211). -/
def execOr (r : Nibble) (s : State) : Host.Outcome State Fault Refusal :=
  .next (s.setTarget (s.targetReg.orWith (s.signedView r)))

/-- XOR r (R212). -/
def execXor (r : Nibble) (s : State) : Host.Outcome State Fault Refusal :=
  .next (s.setTarget (s.targetReg.xorWith (s.signedView r)))

/-- ADD r (R213). -/
def execAdd (r : Nibble) (s : State) : Host.Outcome State Fault Refusal :=
  .next (s.setTarget (s.targetReg.addTo (s.signedView r)))

/-- SUB r (R214). -/
def execSub (r : Nibble) (s : State) : Host.Outcome State Fault Refusal :=
  .next (s.setTarget (s.targetReg.subtract (s.signedView r)))

/-- MUL r (R215). -/
def execMul (r : Nibble) (s : State) : Host.Outcome State Fault Refusal :=
  .next (s.setTarget (s.targetReg.multiplyBy (s.signedView r)))

/-- DIV r; a zero divisor is a defined result, not an error (R216, R265). -/
def execDiv (r : Nibble) (s : State) : Host.Outcome State Fault Refusal :=
  .next (s.setTarget (s.targetReg.divideBy (s.signedView r)))

end Sys2Proof.Machine
end

