-- ==== Sys2Proof/Machine/AluZero.lean ====
section
/-! DEFINITION. COM, NEG, INC, DEC, CLR, UNO (spec/47_alu_zero_operand.md), on `$TARGET` only. -/

namespace Sys2Proof.Machine

/-- COM (R240). -/
def execCom (s : State) : Host.Outcome State Fault Refusal := .next (s.setTarget s.targetReg.complement)

/-- NEG (R241). -/
def execNeg (s : State) : Host.Outcome State Fault Refusal := .next (s.setTarget s.targetReg.negate)

/-- INC: `addTo(1)` (R242). -/
def execInc (s : State) : Host.Outcome State Fault Refusal := .next (s.setTarget (s.targetReg.addTo 1))

/-- DEC: `subtract(1)` (R243). -/
def execDec (s : State) : Host.Outcome State Fault Refusal := .next (s.setTarget (s.targetReg.subtract 1))

/-- CLR: `set(0)` (R244). -/
def execClr (s : State) : Host.Outcome State Fault Refusal := .next (s.setValue s.target 0)

/-- UNO: `set(1)` (R245). -/
def execUno (s : State) : Host.Outcome State Fault Refusal := .next (s.setValue s.target 1)

end Sys2Proof.Machine
end

