-- ==== Sys2Proof/Machine/Control.lean ====
section
/-! DEFINITION. JR, J, JZ, JN, JC, JV (spec/46_control_transfer.md): a write of `pc.next` and nothing else. The five
wide jumps find `pc.next` already past their immediate (spec/40_tick_fetch_decode.md R137), and leave it there when
they are not taken (R230, D10). -/

namespace Sys2Proof.Machine

/-- A jump to `d` when `taken` (R230). -/
def jumpIf (taken : Bool) (d : Word) (s : State) : State := if taken then s.jump d else s

/-- JR r (R231). -/
def execJr (r : Nibble) (s : State) : Host.Outcome State Fault Refusal := .next (s.jump (s.view r))

/-- J d (R232). -/
def execJ (d : Word) (s : State) : Host.Outcome State Fault Refusal := .next (s.jump d)

/-- JZ d: the zero condition of `$TARGET` as it is now (R233). -/
def execJz (d : Word) (s : State) : Host.Outcome State Fault Refusal := .next (jumpIf s.targetReg.isZero d s)

/-- JN d: the negative condition of `$TARGET` as it is now (R234). -/
def execJn (d : Word) (s : State) : Host.Outcome State Fault Refusal := .next (jumpIf s.targetReg.isNegative d s)

/-- JC d: the carry flag of `$TARGET`, not cleared by the test (R235). -/
def execJc (d : Word) (s : State) : Host.Outcome State Fault Refusal := .next (jumpIf s.targetReg.carry d s)

/-- JV d: the overflow flag of `$TARGET` (R236). -/
def execJv (d : Word) (s : State) : Host.Outcome State Fault Refusal := .next (jumpIf s.targetReg.overflow d s)

end Sys2Proof.Machine
end

