-- ==== Sys2Proof/Machine/Memory.lean ====
section
/-! DEFINITION. The RAM byte store (spec/10_state.md R34) as a list of cells in one canonical form: addresses strictly
rising, none equal to what an unlisted address reads as. -/

namespace Sys2Proof.Machine

/-- What a byte that nothing has written reads as: 0 (R45, D24; log 3). -/
def Memory.unlisted : Byte := 0

/-- The byte at address `a`. -/
def Memory.read : Memory → Nat → Byte
  | [], _ => Memory.unlisted
  | (a', b') :: rest, a => if a = a' then b' else Memory.read rest a

/-- A new cell in front of `rest`, unless it holds what an unlisted address reads as. -/
def Memory.cons (a : Nat) (b : Byte) (rest : Memory) : Memory :=
  if b = Memory.unlisted then rest else (a, b) :: rest

/-- Write one byte, keeping the canonical form. -/
def Memory.write : Memory → Nat → Byte → Memory
  | [], a, b => Memory.cons a b []
  | (a', b') :: rest, a, b =>
    if a < a' then Memory.cons a b ((a', b') :: rest)
    else if a = a' then Memory.cons a b rest
    else (a', b') :: Memory.write rest a b

/-- Write a byte sequence from address `a` upwards. -/
def Memory.load : Memory → Nat → List Byte → Memory
  | m, _, [] => m
  | m, a, b :: bs => Memory.load (Memory.write m a b) (a + 1) bs

/-- The canonical form for addresses from `lo` below `size`. -/
def Memory.wfFrom (lo size : Nat) : Memory → Bool
  | [] => true
  | (a, b) :: rest =>
    decide (lo ≤ a) && decide (a < size) && decide (b ≠ Memory.unlisted) && Memory.wfFrom (a + 1) size rest

/-- The canonical form of a RAM of `size` bytes. -/
def Memory.wf (size : Nat) (m : Memory) : Bool := Memory.wfFrom 0 size m

end Sys2Proof.Machine
end

