-- ==== Sys2Proof/Machine/Router.lean ====
section
/-! DEFINITION. The address-space router (spec/20_memory.md R63 to R68) and the accesses it serves: RAM, the two
core-local windows (spec/10_state.md R40, R42) and the external devices. An access that raises answers `.error` with
the state in which the fatal error is recorded (R10). -/

namespace Sys2Proof.Machine

/-- Where the router sends an access, with the local offset (R63). -/
inductive Route where
  | pcWindow (o : Nat)
  | cpuWindow (o : Nat)
  | device (k : Nat) (o : Nat)
  | ram
deriving DecidableEq, Repr

/-- The local offset of `a` in a 4-address window (R40, R42). -/
def windowOffset (window : Option Word) (a : Nat) : Option Nat :=
  match window with
  | none => none
  | some base => if base.toNat ≤ a ∧ a < base.toNat + 4 then some (a - base.toNat) else none

/-- The first device from index `k` on that claims `a`, with the local offset (R63). -/
def findDevice (a : Nat) : Nat → List Device → Option (Nat × Nat)
  | _, [] => none
  | k, d :: ds => if d.claims a then some (k, a - d.start.toNat) else findDevice a (k + 1) ds

/-- `route(a)` (R63, R64); ranges are disjoint on every platform that bring-up accepts, so the order of the search
is not observable (R73; log 16). -/
def Platform.route (p : Platform) (a : Nat) : Route :=
  match windowOffset p.pcWindow a with
  | some o => .pcWindow o
  | none =>
    match windowOffset p.cpuWindow a with
    | some o => .cpuWindow o
    | none =>
      match findDevice a 0 p.devices with
      | some (k, o) => .device k o
      | none => .ram

/-- `route(a)` in a state. -/
def State.route (s : State) (a : Word) : Route := Platform.route s.platform a.toNat

/-- An access raises AddressError (R65, R66, R262). -/
def State.addressError (s : State) (a : Word) (width : Nat) (kind : AccessKind) : State :=
  s.raise (.addressError a width kind)

/-- The four RAM bytes from `a` up, big-endian (R66). -/
def Memory.readWord (m : Memory) (a : Nat) : Word :=
  wordOfBytes (Memory.read m a) (Memory.read m (a + 1)) (Memory.read m (a + 2)) (Memory.read m (a + 3))

/-- Store a word at `a`, big-endian (R66). -/
def Memory.writeWord (m : Memory) (a : Nat) (v : Word) : Memory :=
  Memory.load m a [byteOfWord v 0, byteOfWord v 1, byteOfWord v 2, byteOfWord v 3]

/-- A read served by device `k`: its answer and its new state, or its fault (R65). -/
def State.deviceRead {α : Type} (s : State) (a : Word) (width k : Nat)
    (handler : Device → DevState → Option (α × DevState)) : Except State (α × State) :=
  match s.device? k with
  | none => .error (s.addressError a width .deviceFault)
  | some (d, st) =>
    match handler d st with
    | none => .error (s.addressError a width .deviceFault)
    | some (v, st') => .ok (v, s.setDev k st')

/-- A write served by device `k` (R65). -/
def State.deviceWrite (s : State) (a : Word) (width k : Nat)
    (handler : Device → DevState → Option DevState) : Except State State :=
  match s.device? k with
  | none => .error (s.addressError a width .deviceFault)
  | some (d, st) =>
    match handler d st with
    | none => .error (s.addressError a width .deviceFault)
    | some st' => .ok (s.setDev k st')

/-- `MemRead(a, 1)`; `kind` is what an access outside RAM and every device is reported as (R65, R66, R262). -/
def memReadByte (kind : AccessKind) (a : Word) (s : State) : Except State (Byte × State) :=
  match s.route a with
  | .pcWindow o => .ok (byteOfWord s.pcCurrent o, s)
  | .cpuWindow o => .ok (byteOfWord s.targetView o, s)
  | .device k o => s.deviceRead a 1 k fun d st => d.readByte st o
  | .ram =>
    if a.toNat < s.platform.ramSize then .ok (Memory.read s.ram a.toNat, s) else .error (s.addressError a 1 kind)

/-- `MemRead(a, 4)`, one call, routed by `a` alone; `a + 3` is not wrapped (R65 to R68). -/
def memReadWord (kind : AccessKind) (a : Word) (s : State) : Except State (Word × State) :=
  match s.route a with
  | .pcWindow o => if o = 0 then .ok (s.pcCurrent, s) else .error (s.addressError a 4 .deviceFault)
  | .cpuWindow o => if o = 0 then .ok (s.targetView, s) else .error (s.addressError a 4 .deviceFault)
  | .device k o => s.deviceRead a 4 k fun d st => d.readInteger st o
  | .ram =>
    if a.toNat + 3 < s.platform.ramSize then .ok (Memory.readWord s.ram a.toNat, s)
    else .error (s.addressError a 4 kind)

/-- `MemWrite(a, 4, v)`, one call, routed by `a` alone; an access that raises writes no byte (R65 to R68). -/
def memWriteWord (a : Word) (v : Word) (s : State) : Except State State :=
  match s.route a with
  | .pcWindow o => if o = 0 then .ok (s.jump v) else .error (s.addressError a 4 .deviceFault)
  | .cpuWindow o =>
    if o = 0 then .ok (s.setValue s.target v.toInt) else .error (s.addressError a 4 .deviceFault)
  | .device k o => s.deviceWrite a 4 k fun d st => d.writeInteger st o v
  | .ram =>
    if a.toNat + 3 < s.platform.ramSize then .ok (s.setRam (Memory.writeWord s.ram a.toNat v))
    else .error (s.addressError a 4 .write)

/-- `MemWrite(a, 1, b)`: the router has it, no instruction makes one (R66, R76). -/
def memWriteByte (a : Word) (b : Byte) (s : State) : Except State State :=
  match s.route a with
  | .pcWindow o => .ok (s.jump (replaceByte s.pcNext o b))
  | .cpuWindow o => .ok (s.setValue s.target (replaceByte s.targetView o b).toInt)
  | .device k o => s.deviceWrite a 1 k fun d st => d.writeByte st o b
  | .ram =>
    if a.toNat < s.platform.ramSize then .ok (s.setRam (Memory.write s.ram a.toNat b))
    else .error (s.addressError a 1 .write)

end Sys2Proof.Machine
end

