-- ==== Sys2Proof/Machine/LoadStore.lean ====
section
/-! DEFINITION. LDR, STR, LDN, STN (spec/43_load_store.md). The immediate of LDN and STN has been fetched and skipped
before they execute (spec/40_tick_fetch_decode.md R137). -/

namespace Sys2Proof.Machine

/-- Load `$TARGET`, by `set`, with the word read at `a`; a read that raises leaves it unwritten (R200). -/
def loadTarget (a : Word) (s : State) : Host.Outcome State Fault Refusal :=
  match memReadWord .read a s with
  | .error s' => .next s'
  | .ok (v, s') => .next (s'.setValue s'.target v.toInt)

/-- Store `$TARGET`'s view at `a`; a write that raises stores nothing (R201, R203). -/
def storeTarget (a : Word) (s : State) : Host.Outcome State Fault Refusal :=
  match memWriteWord a s.targetView s with
  | .error s' => .next s'
  | .ok s' => .next s'

/-- LDR r: the address is the view of register r, read before the destination is written (R200). -/
def execLdr (r : Nibble) (s : State) : Host.Outcome State Fault Refusal := loadTarget (s.view r) s

/-- STR r: the address is the view of register r, the data `$TARGET` (R201). -/
def execStr (r : Nibble) (s : State) : Host.Outcome State Fault Refusal := storeTarget (s.view r) s

/-- LDN d: the immediate itself, by `set` (R202). -/
def execLdn (d : Word) (s : State) : Host.Outcome State Fault Refusal := .next (s.setValue s.target d.toInt)

/-- STN d: the address is the immediate, the data `$TARGET` (R203). -/
def execStn (d : Word) (s : State) : Host.Outcome State Fault Refusal := storeTarget d s

end Sys2Proof.Machine
end

