-- ==== Sys2Proof/Machine/Select.lean ====
section
/-! DEFINITION. SEL and CP (spec/42_select_copy.md). -/

namespace Sys2Proof.Machine

/-- SEL r: `T <- r`, no value touched (R190). -/
def execSel (r : Nibble) (s : State) : Host.Outcome State Fault Refusal := .next (s.select r)

/-- CP r: `x[r] <- x[T]` by `set`, so the flags of `r` are cleared (R191). -/
def execCp (r : Nibble) (s : State) : Host.Outcome State Fault Refusal := .next (s.setValue r (s.signedView s.target))

end Sys2Proof.Machine
end

