-- ==== Sys2Proof/Machine/Shift.lean ====
section
/-! DEFINITION. SHL, SHR, SSR (spec/45_shift.md): the nibble is the count, 0 to 15, and the register is `$TARGET`. -/

namespace Sys2Proof.Machine

/-- SHL n (R220). -/
def execShl (n : Nibble) (s : State) : Host.Outcome State Fault Refusal :=
  .next (s.setTarget (s.targetReg.shiftLeft n.toNat))

/-- SHR n (R221). -/
def execShr (n : Nibble) (s : State) : Host.Outcome State Fault Refusal :=
  .next (s.setTarget (s.targetReg.shiftRight n.toNat))

/-- SSR n (R222). -/
def execSsr (n : Nibble) (s : State) : Host.Outcome State Fault Refusal :=
  .next (s.setTarget (s.targetReg.signedShiftRight n.toNat))

end Sys2Proof.Machine
end

