-- ==== Sys2Proof/Machine/System.lean ====
section
/-! DEFINITION. NOP, RST, HLT (spec/48_system.md). -/

namespace Sys2Proof.Machine

/-- NOP: nothing beyond the tick itself (R250). -/
def execNop (s : State) : Host.Outcome State Fault Refusal := .next s

/-- RST: registers, flags, target pointer, program counter and devices reset, clock stopped, RAM kept (R251). -/
def execRst (s : State) : Host.Outcome State Fault Refusal := .next s.resetCore

/-- HLT: the clock stops when this tick is over; nothing else changes (R252). -/
def execHlt (s : State) : Host.Outcome State Fault Refusal := .next s.halt

end Sys2Proof.Machine
end

