-- ==== Sys2Proof/Machine/Dispatch.lean ====
section
/-! DEFINITION. Dispatch (spec/40_tick_fetch_decode.md R138): one arm per instruction, in the table's order. The
operand fetch and the skip of a wide immediate (R137) have been done. -/

namespace Sys2Proof.Machine

def exec (i : Instr) (s : State) : Host.Outcome State Fault Refusal :=
  match i with
  | .sel r => Sys2Proof.Machine.execSel r s
  | .ldr r => Sys2Proof.Machine.execLdr r s
  | .str r => Sys2Proof.Machine.execStr r s
  | .jr r => Sys2Proof.Machine.execJr r s
  | .cp r => Sys2Proof.Machine.execCp r s
  | .and r => Sys2Proof.Machine.execAnd r s
  | .or r => Sys2Proof.Machine.execOr r s
  | .xor r => Sys2Proof.Machine.execXor r s
  | .add r => Sys2Proof.Machine.execAdd r s
  | .sub r => Sys2Proof.Machine.execSub r s
  | .mul r => Sys2Proof.Machine.execMul r s
  | .div r => Sys2Proof.Machine.execDiv r s
  | .shl n => Sys2Proof.Machine.execShl n s
  | .shr n => Sys2Proof.Machine.execShr n s
  | .ssr n => Sys2Proof.Machine.execSsr n s
  | .ldn d => Sys2Proof.Machine.execLdn d s
  | .stn d => Sys2Proof.Machine.execStn d s
  | .j d => Sys2Proof.Machine.execJ d s
  | .jz d => Sys2Proof.Machine.execJz d s
  | .jn d => Sys2Proof.Machine.execJn d s
  | .jc d => Sys2Proof.Machine.execJc d s
  | .jv d => Sys2Proof.Machine.execJv d s
  | .com => Sys2Proof.Machine.execCom s
  | .neg => Sys2Proof.Machine.execNeg s
  | .inc => Sys2Proof.Machine.execInc s
  | .dec => Sys2Proof.Machine.execDec s
  | .clr => Sys2Proof.Machine.execClr s
  | .uno => Sys2Proof.Machine.execUno s
  | .nop => Sys2Proof.Machine.execNop s
  | .rst => Sys2Proof.Machine.execRst s
  | .hlt => Sys2Proof.Machine.execHlt s

end Sys2Proof.Machine
end

