-- ==== Sys2Proof/Machine/Fetch.lean ====
section
/-! DEFINITION. Fetch, decode and operand fetch (spec/40_tick_fetch_decode.md R135 to R137), in a state whose broadcast
has been done. -/

namespace Sys2Proof.Machine

/-- Fetch the opcode byte at `pc.current`, decode it, and for a wide opcode read the immediate and move `pc.next` past
it; an access that raises answers `.error` with the fatal error recorded (R135, R136, R137, R140). -/
def fetch (s : State) : Except State (Instr × State) :=
  match memReadByte .fetch s.pcCurrent s with
  | .error s' => .error s'
  | .ok (b, s1) =>
    match lookupOpcode b with
    | none => .error (s1.raise (.decodeError s1.pcCurrent b))
    | some (.nibble make) => .ok (make (operandNibble b), s1)
    | some (.zero i) => .ok (i, s1)
    | some (.wide make) =>
      match memReadWord .immediate (s1.pcCurrent + 1) s1 with
      | .error s' => .error s'
      | .ok (d, s2) => .ok (make d, s2.skipImmediate)

end Sys2Proof.Machine
end

