-- ==== Sys2Proof/Machine/Step.lean ====
section
/-! DEFINITION. One tick (spec/40_tick_fetch_decode.md R130, R131), and the state in which the next tick runs a given
instruction. -/

namespace Sys2Proof.Machine

/-- Phases 2 and 3 of a tick: one interrupt entry, or one instruction (R130, R134, R139). -/
def afterBroadcast (s : State) : Host.Outcome State Fault Refusal :=
  match s.arbitrate with
  | some k => .next (s.interruptEntry k)
  | none =>
    match fetch s with
    | .error s' => .next s'
    | .ok (i, s') => exec i s'

/-- One tick; there is none after a fatal error or while the clock is stopped (R130, R131; logs 7, 8). -/
def step (s : State) : Host.Outcome State Fault Refusal :=
  match s.fatal with
  | some e => .fault (.fatalError e)
  | none => if s.running then afterBroadcast s.broadcast else .fault .clockStopped

/-- The instruction given as a number of `nbits` bits, loaded where the next tick fetches, with the clock started
(R50 `start`; log 9). -/
def State.withFetchWord (s : State) (nbits w : Nat) : State :=
  { s with
    ram := Memory.load s.ram s.pcNext.toNat (tableBytes nbits w)
    running := true }

end Sys2Proof.Machine
end

