-- ==== Sys2Proof/WellFormed.lean ====
section
/-! DEFINITION. What is well formed: every instruction (its operand types are exactly the encoding's fields), and the
platforms that bring-up accepts (spec/70_reset_and_hazards.md R303, spec/20_memory.md R70, R73). -/

namespace Sys2Proof

/-- Every value of the nibble is valid in every family (R101) and every 32-bit immediate is valid (R103), and the
operand types admit no other value: no instruction is ill formed. -/
def Instr.wellFormed (_ : Instr) : Bool := true

/-- An address range as bring-up sees it: first address and length (R63). -/
abbrev Range := Nat × Nat

/-- Two ranges share an address (R73). -/
def Range.overlap (p q : Range) : Bool := decide (p.1 < q.1 + q.2) && decide (q.1 < p.1 + p.2)

/-- A claimed range is legal: not empty, and inside the 32-bit address space (R70, D20). -/
def Range.legal (p : Range) : Bool := decide (1 ≤ p.2) && decide (p.1 + p.2 ≤ 2 ^ 32)

/-- The range of a core-local window, 4 addresses from its base (R40, R42). -/
def windowRange : Option Word → List Range
  | none => []
  | some base => [(base.toNat, 4)]

/-- Every range claimed on a platform: the two windows and the external devices (R63, R303). -/
def Platform.ranges (p : Platform) : List Range :=
  windowRange p.pcWindow ++ windowRange p.cpuWindow ++ p.devices.map fun d => (d.start.toNat, d.length)

/-- No two ranges of the list share an address (R73). -/
def rangesDisjoint : List Range → Bool
  | [] => true
  | p :: ps => ps.all (fun q => !Range.overlap p q) && rangesDisjoint ps

/-- RAM is there: a missing required component is refused (R263, R303). -/
def Platform.hasRam (p : Platform) : Bool := decide (1 ≤ p.ramSize)

/-- RAM fits the address space: `RAM_SIZE <= 2^32` (R5). -/
def Platform.ramFits (p : Platform) : Bool := decide (p.ramSize ≤ 2 ^ 32)

/-- The image fits RAM (D24). -/
def Platform.imageFits (p : Platform) : Bool := decide (p.image.length ≤ p.ramSize)

/-- A platform that bring-up accepts (R303). -/
def Platform.wellFormed (p : Platform) : Bool :=
  p.hasRam && p.ramFits && p.ranges.all Range.legal && rangesDisjoint p.ranges && p.imageFits

end Sys2Proof
end

