-- ==== Sys2Proof/Machine/BringUp.lean ====
section
/-! DEFINITION. Bring-up and the power-on reset state (spec/70_reset_and_hazards.md R300, R303; spec/10_state.md R45,
R50). -/

namespace Sys2Proof.Machine

/-- Why bring-up refuses a configuration: no state exists and no tick is possible (R263, R303). -/
inductive ConfigurationError where
  /-- A required component is missing: no RAM. -/
  | missingRam
  /-- RAM does not fit the 32-bit address space (R5; log 17). -/
  | ramTooLarge
  /-- A claimed range is empty or runs past the address space (D20). -/
  | illegalRange
  /-- Two claimed ranges share an address (R73). -/
  | overlappingRanges
  /-- The image is longer than RAM (D24). -/
  | imageTooLong
deriving DecidableEq, Repr

/-- The first check of R303 that the configuration fails, if any. -/
def configurationError (p : Platform) : Option ConfigurationError :=
  if p.hasRam = false then some .missingRam
  else if p.ramFits = false then some .ramTooLarge
  else if p.ranges.all Range.legal = false then some .illegalRange
  else if rangesDisjoint p.ranges = false then some .overlappingRanges
  else if p.imageFits = false then some .imageTooLong
  else none

/-- The power-on reset state of a configuration (R45, R300): RAM holds the image from address 0 and 0 elsewhere, and
every device's `reset()` has been called (R70), which gives its configured initial state (log 12). -/
def powerOn (p : Platform) : State where
  regs := Vector.replicate 16 Register.cleared
  target := 0
  pcCurrent := 0
  pcNext := 0
  ram := Memory.load [] 0 p.image
  dev := p.devices.map Device.initial
  running := false
  fatal := none
  platform := p

/-- `bring_up(config)` (R50, R303). -/
def bringUp (p : Platform) : Except ConfigurationError State :=
  match configurationError p with
  | some e => .error e
  | none => .ok (powerOn p)

end Sys2Proof.Machine
end

