-- ==== Sys2Proof/Machine/Environment.lean ====
section
/-! DEFINITION. What the environment does to the core (spec/10_state.md R50), each operation atomic with respect to
ticks. `bring_up` makes a state and stands in Machine/BringUp.lean. -/

namespace Sys2Proof.Machine

/-- An operation of the environment on a core that has been brought up (R50). -/
inductive EnvironmentOp where
  | start
  | stop
  | tick
  | powerOnReset
deriving DecidableEq, Repr

/-- The effect of an operation. `start` needs `fatal = none`; `stop` has no precondition, and one issued during a tick
is one issued after it (R37, R50); only power-on reset leaves a fatal error (R264). -/
def environment (op : EnvironmentOp) (s : State) : Host.Outcome State Fault Refusal :=
  match op with
  | .start =>
    match s.fatal with
    | some e => .fault (.fatalError e)
    | none => .next { s with running := true }
  | .stop => .next s.halt
  | .tick => step s
  | .powerOnReset => .next (powerOn s.platform)

end Sys2Proof.Machine
end

