-- ==== Sys2Proof/Safety.lean ====
section
/-! DEFINITION. The terms in which statements about runs are made: the state invariant, normal ends and fatal ends
(spec/48_system.md R253, spec/60_exceptions.md R264). -/

namespace Sys2Proof.Machine

/-- The state invariant: RAM is in canonical form and inside `RAM_SIZE` (R34), there is one device state for each
device of the platform (R36), and the platform is one that bring-up accepts (R303). -/
def State.wellFormed (s : State) : Bool :=
  Memory.wf s.platform.ramSize s.ram && decide (s.dev.length = s.platform.devices.length) && s.platform.wellFormed

/-- A normal end of a run: the clock is stopped and no fatal error is recorded (R253). DESIGN CHOICE (log 18): it looks at
the state alone, not at what stopped the clock, so it also holds of a core that was brought up and never started and
after a power-on reset that cut a run off; R253 says of neither whether it counts. -/
def State.normalEnd (s : State) : Bool := !s.running && s.fatal.isNone

/-- A fatal end: never a final state of a run (R264). -/
def State.fatalEnd (s : State) : Bool := s.fatal.isSome

/-- The next tick can happen (R131). -/
def State.canTick (s : State) : Bool := s.running && s.fatal.isNone

/-- A run of `n` ticks from `s` takes place whole and records no fatal error. -/
def safeRun : Nat → State → Prop
  | 0, s => s.fatalEnd = false
  | n + 1, s => s.fatalEnd = false ∧ ∃ s', step s = .next s' ∧ safeRun n s'

end Sys2Proof.Machine
end

