-- ==== Sys2Proof/Certificates/Slice0/Obligations.lean ====
section
/-! DEFINITION. The statements about the machine, one def per statement, and before them the few words they share:
which parts of the state are unchanged, that an instruction completes, and that plain RAM holds an instruction where
the next tick fetches. -/

namespace Sys2Proof.Statement
open Sys2Proof.Machine

/-- The exact result leaves the signed 32-bit range `[-2^31, 2^31-1]`. -/
def outside32 (z : Int) : Bool := decide (z < -2147483648 ∨ 2147483647 < z)

/-- A register with both flags clear. -/
def clean (v : Word) : Register := ⟨v, false, false⟩

/-- Big-endian byte `j` (0..3) of a word. -/
def wordByte (v : Word) (j : Nat) : Byte := (v >>> (24 - 8 * j)).setWidth 8

/-- `v'` is `v` with its big-endian byte `k` replaced by `b`, the other three as they were. -/
def ReplacesByte (v : Word) (k : Nat) (b : Byte) (v' : Word) : Prop :=
  wordByte v' k = b ∧ ∀ j, j < 4 → j ≠ k → wordByte v' j = wordByte v j

/-- Every register, value and flags, is unchanged. -/
def SameRegs (s t : State) : Prop := ∀ p, t.reg p = s.reg p

/-- Both program-counter cells are unchanged. -/
def SamePc (s t : State) : Prop := t.pcCurrent = s.pcCurrent ∧ t.pcNext = s.pcNext

/-- Every byte of RAM reads as before. -/
def SameRam (s t : State) : Prop := ∀ a, Memory.read t.ram a = Memory.read s.ram a

/-- Devices, run bit, fatal record and configuration are unchanged. -/
def SameRest (s t : State) : Prop :=
  t.dev = s.dev ∧ t.running = s.running ∧ t.fatal = s.fatal ∧ t.platform = s.platform

/-- Nothing but, possibly, the run bit changes. -/
def SameButRunning (s t : State) : Prop :=
  SameRegs s t ∧ t.target = s.target ∧ SamePc s t ∧ SameRam s t ∧ t.dev = s.dev ∧ t.fatal = s.fatal ∧
    t.platform = s.platform

/-- Register `q` becomes `x`; nothing else changes. -/
def OnlyRegister (s t : State) (q : Nibble) (x : Register) : Prop :=
  t.reg q = x ∧ (∀ p, p ≠ q → t.reg p = s.reg p) ∧ t.target = s.target ∧ SamePc s t ∧ SameRam s t ∧ SameRest s t

/-- `pc.next` becomes `a`; nothing else changes. -/
def OnlyNext (s t : State) (a : Word) : Prop :=
  t.pcNext = a ∧ t.pcCurrent = s.pcCurrent ∧ SameRegs s t ∧ t.target = s.target ∧ SameRam s t ∧ SameRest s t

/-- The fatal error `e` is recorded; nothing else changes. -/
def OnlyFatal (s t : State) (e : FatalError) : Prop :=
  t.fatal = some e ∧ SameRegs s t ∧ t.target = s.target ∧ SamePc s t ∧ SameRam s t ∧ t.dev = s.dev ∧
    t.running = s.running ∧ t.platform = s.platform

/-- Device `k` becomes `st`; nothing else changes but, possibly, a register. -/
def OnlyDeviceAndRegister (s t : State) (k : Nat) (st : DevState) (q : Nibble) (x : Register) : Prop :=
  t.dev = s.dev.set k st ∧ t.reg q = x ∧ (∀ p, p ≠ q → t.reg p = s.reg p) ∧ t.target = s.target ∧ SamePc s t ∧
    SameRam s t ∧ t.running = s.running ∧ t.fatal = s.fatal ∧ t.platform = s.platform

/-- The word `v` is in RAM at `a .. a+3`, most significant byte first; nothing else changes. -/
def OnlyWordStored (s t : State) (a : Nat) (v : Word) : Prop :=
  (∀ j, j < 4 → Memory.read t.ram (a + j) = wordByte v j) ∧
    (∀ b, b < a ∨ a + 4 ≤ b → Memory.read t.ram b = Memory.read s.ram b) ∧
    SameRegs s t ∧ t.target = s.target ∧ SamePc s t ∧ SameRest s t

/-- `i` answers a next state, which has the property. -/
def Completes (i : Instr) (s : State) (property : State → Prop) : Prop := ∃ t, exec i s = .next t ∧ property t

/-- The addresses `a .. a+n-1` are inside RAM and inside the address space, and no device or window claims one. -/
def PlainRam (s : State) (a n : Nat) : Prop :=
  a + n ≤ s.platform.ramSize ∧ a + n ≤ 2 ^ 32 ∧ ∀ j, j < n → Platform.route s.platform (a + j) = .ram

/-- The `n` bytes of RAM from `a` up. -/
def ramBytes (s : State) (a n : Nat) : List Byte := (List.range n).map fun j => Memory.read s.ram (a + j)

/-- The next tick fetches an instruction: the clock runs, no fatal error is recorded, and no source is pending after
the broadcast. -/
def Fetches (s : State) : Prop := s.running = true ∧ s.fatal = none ∧ s.broadcast.arbitrate = none

/-- Plain RAM holds the instruction where the next tick fetches. -/
def CodeAt (s : State) (i : Instr) : Prop :=
  PlainRam s s.pcNext.toNat (encode i).length ∧ ramBytes s s.pcNext.toNat (encode i).length = encode i

/-- The next tick is an interrupt entry for device `k`. -/
def TakesInterrupt (s : State) (k : Nat) : Prop :=
  s.running = true ∧ s.fatal = none ∧ s.broadcast.arbitrate = some k

/-- The target and the condition of the four conditional jumps, on the target register (R233 to R236). -/
def jumpTest (i : Instr) (x : Register) : Option (Word × Bool) :=
  match i with
  | .jz d => some (d, decide (x.acc = 0))
  | .jn d => some (d, x.acc.msb)
  | .jc d => some (d, x.carry)
  | .jv d => some (d, x.overflow)
  | _ => none

/-- Where a taken jump goes: JR, J, and a conditional jump whose condition holds (R231 to R236). -/
def takenTarget (s : State) (i : Instr) : Option Word :=
  match i with
  | .jr r => some (s.view r)
  | .j d => some d
  | _ =>
    match jumpTest i (s.reg s.target) with
    | some (d, true) => some d
    | _ => none

/-- STR and STN with the address each stores to. -/
def storeAddress (s : State) : Instr → Option Word
  | .str r => some (s.view r)
  | .stn d => some d
  | _ => none

/-- The two states agree in everything but the stored carry and overflow flags. -/
def SameButFlags (s t : State) : Prop :=
  (∀ p, (t.reg p).acc = (s.reg p).acc) ∧ t.target = s.target ∧ SamePc s t ∧ t.ram = s.ram ∧ SameRest s t

/-- Two claimed ranges share an address (R73). -/
def shareAddress (p q : Range) : Prop := ∃ a, (p.1 ≤ a ∧ a < p.1 + p.2) ∧ (q.1 ≤ a ∧ a < q.1 + q.2)

end Sys2Proof.Statement

open Sys2Proof Sys2Proof.Machine Sys2Proof.Statement

/-! ### Selection and copy -/

/-- R190: SEL r repoints the target pointer without touching any value; its byte is `0x00 + r`. -/
def Obligations.SelRepointsTarget : Prop :=
  ∀ (r : Nibble) (s : State), encode (.sel r) = [0x00#8 + r.setWidth 8] ∧
    Completes (.sel r) s fun t => t.target = r ∧ SameRegs s t ∧ SamePc s t ∧ SameRam s t ∧ SameRest s t

/-- R191: CP r copies `$TARGET` into register r by `set`: its flags are cleared, its zero and negative conditions are
those of the value, and for `r ≠ T` the target register is untouched; its byte is `0x40 + r`. -/
def Obligations.CpCopiesTargetAndClearsFlags : Prop :=
  ∀ (r : Nibble) (s : State), encode (.cp r) = [0x40#8 + r.setWidth 8] ∧
    Completes (.cp r) s fun t => OnlyRegister s t r (clean (s.view s.target)) ∧
      (t.reg r).isZero = decide (s.view s.target = 0) ∧ (t.reg r).isNegative = (s.view s.target).msb

/-! ### Loads and stores -/

/-- R202: LDN d loads the immediate itself into `$TARGET` by `set`; its bytes are `0xF0` and d, big-endian. -/
def Obligations.LdnLoadsImmediate : Prop :=
  ∀ (d : Word) (s : State),
    encode (.ldn d) = [0xF0, wordByte d 0, wordByte d 1, wordByte d 2, wordByte d 3] ∧
    Completes (.ldn d) s fun t => OnlyRegister s t s.target (clean d)

/-- LDR r, every route of its address (the spec's decisions D5 and D30, log 13): from RAM it loads the four bytes
big-endian by `set`; past the end of RAM it records AddressError(a, 4, read) and leaves `$TARGET` alone (D18, log 15);
at a device it takes one `readInteger`, or records the device's fault (D18, log 15); at the base of the PC window it
loads `pc.current`, at the base of the CPU window the view of `$TARGET` itself, and at offsets 1 to 3 of either it
records a device fault (D21, D22, log 14). That a refused access leaves the device as it was is the model's choice (log
4). -/
def Obligations.LdrLoadsTheAddressedWord : Prop :=
  ∀ (r : Nibble) (s : State), encode (.ldr r) = [0x10#8 + r.setWidth 8] ∧
    (s.route (s.view r) = .ram → (s.view r).toNat + 3 < s.platform.ramSize →
      Completes (.ldr r) s fun t => OnlyRegister s t s.target
        (clean (Memory.read s.ram (s.view r).toNat ++ Memory.read s.ram ((s.view r).toNat + 1) ++
          Memory.read s.ram ((s.view r).toNat + 2) ++ Memory.read s.ram ((s.view r).toNat + 3)))) ∧
    (s.route (s.view r) = .ram → s.platform.ramSize ≤ (s.view r).toNat + 3 →
      Completes (.ldr r) s fun t => OnlyFatal s t (.addressError (s.view r) 4 .read)) ∧
    (∀ k o d st, s.route (s.view r) = .device k o → s.device? k = some (d, st) →
      (∀ v st', d.readInteger st o = some (v, st') →
        Completes (.ldr r) s fun t => OnlyDeviceAndRegister s t k st' s.target (clean v)) ∧
      (d.readInteger st o = none →
        Completes (.ldr r) s fun t => OnlyFatal s t (.addressError (s.view r) 4 .deviceFault))) ∧
    (∀ o, s.route (s.view r) = .pcWindow o →
      (o = 0 → Completes (.ldr r) s fun t => OnlyRegister s t s.target (clean s.pcCurrent)) ∧
      (o ≠ 0 → Completes (.ldr r) s fun t => OnlyFatal s t (.addressError (s.view r) 4 .deviceFault))) ∧
    (∀ o, s.route (s.view r) = .cpuWindow o →
      (o = 0 → Completes (.ldr r) s fun t => OnlyRegister s t s.target (clean (s.view s.target))) ∧
      (o ≠ 0 → Completes (.ldr r) s fun t => OnlyFatal s t (.addressError (s.view r) 4 .deviceFault)))

/-- STR r and STN d: their bytes, and every route of their address (the spec's decisions D6, D7 and D30, log 13): into
RAM they store the view of `$TARGET` big-endian and change no other byte; past the end of RAM they record
AddressError(a, 4, write) and write no byte (D18, log 15); at a device they take one `writeInteger`, or record the
device's fault (D18, log 15); at the base of the PC window they are a jump, at the base of the CPU window they `set`
`$TARGET` to its own view, and at offsets 1 to 3 of either they record a device fault (D21, D22, log 14). RAM is in
canonical form, as every step keeps it. That a refused access leaves the device as it was is the model's choice (log 4). -/
def Obligations.StoresWriteTheAddressedWord : Prop :=
  (∀ r : Nibble, encode (.str r) = [0x20#8 + r.setWidth 8]) ∧
  (∀ d : Word, encode (.stn d) = [0xF1, wordByte d 0, wordByte d 1, wordByte d 2, wordByte d 3]) ∧
  ∀ (s : State) (i : Instr) (a : Word), storeAddress s i = some a →
    (Memory.wf s.platform.ramSize s.ram = true → s.route a = .ram → a.toNat + 3 < s.platform.ramSize →
      Completes i s fun t => OnlyWordStored s t a.toNat (s.view s.target)) ∧
    (s.route a = .ram → s.platform.ramSize ≤ a.toNat + 3 →
      Completes i s fun t => OnlyFatal s t (.addressError a 4 .write)) ∧
    (∀ k o d st, s.route a = .device k o → s.device? k = some (d, st) →
      (∀ st', d.writeInteger st o (s.view s.target) = some st' →
        Completes i s fun t => OnlyDeviceAndRegister s t k st' s.target (s.reg s.target)) ∧
      (d.writeInteger st o (s.view s.target) = none →
        Completes i s fun t => OnlyFatal s t (.addressError a 4 .deviceFault))) ∧
    (∀ o, s.route a = .pcWindow o →
      (o = 0 → Completes i s fun t => OnlyNext s t (s.view s.target)) ∧
      (o ≠ 0 → Completes i s fun t => OnlyFatal s t (.addressError a 4 .deviceFault))) ∧
    (∀ o, s.route a = .cpuWindow o →
      (o = 0 → Completes i s fun t => OnlyRegister s t s.target (clean (s.view s.target))) ∧
      (o ≠ 0 → Completes i s fun t => OnlyFatal s t (.addressError a 4 .deviceFault)))

/-- LDR, STR and STN at the base of the CPU window: each leaves the value of `$TARGET`, which the window exposes, and
clears its flags; at offsets 1 to 3 each records a device fault. Which word each addresses, and that its destination or
data is `$TARGET`, are the spec's decisions D5, D6 and D7, the width its decision D30 (43 R200, R201, R203; log 13); the
window's map is its decision D22 (10 R42; log 14), and that a refused access is an AddressError its decision D18 (20
R65; log 15). -/
def Obligations.CpuWindowExposesTheTarget : Prop :=
  ∀ (s : State) (i : Instr) (a : Word) (o : Nat),
    ((∃ r, i = .ldr r ∧ a = s.view r) ∨ storeAddress s i = some a) → s.route a = .cpuWindow o →
    (o = 0 → Completes i s fun t => OnlyRegister s t s.target (clean (s.view s.target))) ∧
    (o ≠ 0 → Completes i s fun t => OnlyFatal s t (.addressError a 4 .deviceFault))

/-! ### Arithmetic, logic, shifts -/

/-- R210, R211, R212: the three logic operations with the view of register r, flags cleared; their bytes. -/
def Obligations.LogicOperationsClearFlags : Prop :=
  ∀ (r : Nibble) (s : State),
    (encode (.and r) = [0x50#8 + r.setWidth 8] ∧
      Completes (.and r) s fun t => OnlyRegister s t s.target (clean (s.view s.target &&& s.view r))) ∧
    (encode (.or r) = [0x60#8 + r.setWidth 8] ∧
      Completes (.or r) s fun t => OnlyRegister s t s.target (clean (s.view s.target ||| s.view r))) ∧
    (encode (.xor r) = [0x70#8 + r.setWidth 8] ∧
      Completes (.xor r) s fun t => OnlyRegister s t s.target (clean (s.view s.target ^^^ s.view r)))

/-- R213: ADD r: the 32-bit sum, carry iff the exact sum is out of range, overflow cleared. -/
def Obligations.AddReportsRangeInCarry : Prop :=
  ∀ (r : Nibble) (s : State), encode (.add r) = [0x80#8 + r.setWidth 8] ∧
    Completes (.add r) s fun t => OnlyRegister s t s.target
      ⟨s.view s.target + s.view r, outside32 ((s.view s.target).toInt + (s.view r).toInt), false⟩

/-- SUB r (44 R214): the 32-bit difference, carry iff the exact difference is out of range, overflow cleared. That the
difference is exact also for a subtrahend of `-2^31` is the spec's decision D4 (41 R164, log 13). -/
def Obligations.SubReportsRangeInCarry : Prop :=
  ∀ (r : Nibble) (s : State), encode (.sub r) = [0x90#8 + r.setWidth 8] ∧
    Completes (.sub r) s fun t => OnlyRegister s t s.target
      ⟨s.view s.target - s.view r, outside32 ((s.view s.target).toInt - (s.view r).toInt), false⟩

/-- R215: MUL r: the low 32 bits of the product, overflow iff the exact product is out of range, carry cleared. -/
def Obligations.MulReportsRangeInOverflow : Prop :=
  ∀ (r : Nibble) (s : State), encode (.mul r) = [0xA0#8 + r.setWidth 8] ∧
    Completes (.mul r) s fun t => OnlyRegister s t s.target
      ⟨s.view s.target * s.view r, false, outside32 ((s.view s.target).toInt * (s.view r).toInt)⟩

/-- R216: DIV r: by zero the value stays and both flags are set; else the quotient truncated toward zero, carry
cleared, overflow iff the exact quotient is out of range, which only `-2^31 / -1` is. -/
def Obligations.DivTruncatesAndFlagsZeroDivisor : Prop :=
  ∀ (r : Nibble) (s : State), encode (.div r) = [0xB0#8 + r.setWidth 8] ∧
    (s.view r = 0 → Completes (.div r) s fun t => OnlyRegister s t s.target ⟨s.view s.target, true, true⟩) ∧
    (s.view r ≠ 0 → Completes (.div r) s fun t => OnlyRegister s t s.target
      ⟨(s.view s.target).sdiv (s.view r), false, outside32 ((s.view s.target).toInt.tdiv (s.view r).toInt)⟩) ∧
    (s.view r ≠ 0 → (outside32 ((s.view s.target).toInt.tdiv (s.view r).toInt) = true ↔
      s.view s.target = BitVec.intMin 32 ∧ s.view r = -1))

/-- R220, R221, R222: the three shifts of `$TARGET` by the nibble, flags cleared, for a count of 0 too; their bytes. -/
def Obligations.ShiftsClearFlags : Prop :=
  ∀ (n : Nibble) (s : State),
    (encode (.shl n) = [0xC0#8 + n.setWidth 8] ∧
      Completes (.shl n) s fun t => OnlyRegister s t s.target (clean (s.view s.target <<< n.toNat))) ∧
    (encode (.shr n) = [0xD0#8 + n.setWidth 8] ∧
      Completes (.shr n) s fun t => OnlyRegister s t s.target (clean (s.view s.target >>> n.toNat))) ∧
    (encode (.ssr n) = [0xE0#8 + n.setWidth 8] ∧
      Completes (.ssr n) s fun t => OnlyRegister s t s.target (clean ((s.view s.target).sshiftRight n.toNat)))

/-- COM and NEG (47 R240, R241), flags cleared; their bytes. That COM is the primitive complement and NEG the primitive
negate is the spec's decision D9 (log 13). -/
def Obligations.ComAndNegClearFlags : Prop :=
  ∀ s : State,
    (encode .com = [0xF7] ∧ Completes .com s fun t => OnlyRegister s t s.target (clean (~~~s.view s.target))) ∧
    (encode .neg = [0xF8] ∧ Completes .neg s fun t => OnlyRegister s t s.target (clean (-s.view s.target)))

/-- INC (47 R242) adds one; carry is set from `2^31 - 1` only. That INC is addTo(1) is the spec's decision D9 (log 13). -/
def Obligations.IncCarriesOnlyAtTheTop : Prop :=
  ∀ s : State, encode .inc = [0xF9] ∧
    Completes .inc s fun t => OnlyRegister s t s.target
      ⟨s.view s.target + 1, decide (s.view s.target = 0x7FFFFFFF#32), false⟩

/-- DEC subtracts one, with carry from `-2^31` only; CLR and UNO set `$TARGET` to 0 and to 1 by `set` (the spec's
decision D9, log 13). -/
def Obligations.DecClrAndUno : Prop :=
  ∀ s : State,
    (encode .dec = [0xFA] ∧ Completes .dec s fun t => OnlyRegister s t s.target
      ⟨s.view s.target - 1, decide (s.view s.target = 0x80000000#32), false⟩) ∧
    (encode .clr = [0xFB] ∧ Completes .clr s fun t => OnlyRegister s t s.target (clean 0)) ∧
    (encode .uno = [0xFC] ∧ Completes .uno s fun t => OnlyRegister s t s.target (clean 1))

/-- R167 to R172 at every stored width from 32 up: the primitives, written on exact integers, are the bit-vector
operations over the stored width, both flags cleared; a logic operand is sign-extended. -/
def Obligations.PrimitivesAreBitVectorOperations : Prop :=
  ∀ (w : Nat) (x : Reg w) (n : Nibble) (v : Word), 32 ≤ w →
    x.complement = ⟨~~~x.acc, false, false⟩ ∧
    x.negate = ⟨-x.acc, false, false⟩ ∧
    x.shiftLeft n.toNat = ⟨x.acc <<< n.toNat, false, false⟩ ∧
    x.shiftRight n.toNat = ⟨x.acc >>> n.toNat, false, false⟩ ∧
    x.signedShiftRight n.toNat = ⟨x.acc.sshiftRight n.toNat, false, false⟩ ∧
    x.andWith v.toInt = ⟨x.acc &&& v.signExtend w, false, false⟩ ∧
    x.orWith v.toInt = ⟨x.acc ||| v.signExtend w, false, false⟩ ∧
    x.xorWith v.toInt = ⟨x.acc ^^^ v.signExtend w, false, false⟩

/-- The carry, overflow and division properties (95_test_vectors.md E1, E2, E3; 41 R163 to R166) at every stored width
from 32 up: after `set(a)`, adding, subtracting and multiplying by b show the 32-bit result in the view and the range of
the exact result in the one flag; division by zero leaves the value and sets both flags. That a subtraction reports the
range of the exact difference also for `b = -2^31` is the spec's decision D4 (41 R164, log 13), not the source's. -/
def Obligations.RangeFlagsAtEveryWidth : Prop :=
  ∀ (w : Nat) (a b : Word), 32 ≤ w →
    (Reg.set a.toInt : Reg w).view = a ∧
    (((Reg.set a.toInt : Reg w).addTo b.toInt).view = a + b ∧
      ((Reg.set a.toInt : Reg w).addTo b.toInt).carry = outside32 (a.toInt + b.toInt) ∧
      ((Reg.set a.toInt : Reg w).addTo b.toInt).overflow = false) ∧
    (((Reg.set a.toInt : Reg w).subtract b.toInt).view = a - b ∧
      ((Reg.set a.toInt : Reg w).subtract b.toInt).carry = outside32 (a.toInt - b.toInt) ∧
      ((Reg.set a.toInt : Reg w).subtract b.toInt).overflow = false) ∧
    (((Reg.set a.toInt : Reg w).multiplyBy b.toInt).view = a * b ∧
      ((Reg.set a.toInt : Reg w).multiplyBy b.toInt).carry = false ∧
      ((Reg.set a.toInt : Reg w).multiplyBy b.toInt).overflow = outside32 (a.toInt * b.toInt)) ∧
    (∀ x : Reg w, x.divideBy 0 = ⟨x.acc, true, true⟩)

/-- R175: the INC scenario at every stored width from 32 up, with the fourth INC that shows the width. -/
def Obligations.ThreeIncsSetCarry : Prop :=
  ∀ (w : Nat) (x : Reg w), 32 ≤ w → x = Reg.set 2147483645 →
    (((x.addTo 1).acc.toInt = 2147483646 ∧ (x.addTo 1).carry = false) ∧
    (((x.addTo 1).addTo 1).acc.toInt = 2147483647 ∧ ((x.addTo 1).addTo 1).carry = false) ∧
    ((((x.addTo 1).addTo 1).addTo 1).carry = true) ∧
    (w = 32 → (((x.addTo 1).addTo 1).addTo 1).acc.toInt = -2147483648 ∧
      ((((x.addTo 1).addTo 1).addTo 1).addTo 1).acc.toInt = -2147483647 ∧
      ((((x.addTo 1).addTo 1).addTo 1).addTo 1).carry = false) ∧
    (32 < w → ((((x.addTo 1).addTo 1).addTo 1).addTo 1).acc.toInt = 2147483649 ∧
      ((((x.addTo 1).addTo 1).addTo 1).addTo 1).carry = true))

/-! ### Control transfer -/

/-- R232: J d writes `pc.next` and nothing else; its bytes. -/
def Obligations.JumpWritesOnlyNext : Prop :=
  ∀ (d : Word) (s : State),
    encode (.j d) = [0xF2, wordByte d 0, wordByte d 1, wordByte d 2, wordByte d 3] ∧
    Completes (.j d) s fun t => OnlyNext s t d

/-- JR r writes `pc.next` with the view of register r and nothing else (the spec's decision D8, log 13). -/
def Obligations.JumpRegisterWritesOnlyNext : Prop :=
  ∀ (r : Nibble) (s : State), encode (.jr r) = [0x30#8 + r.setWidth 8] ∧
    Completes (.jr r) s fun t => OnlyNext s t (s.view r)

/-- R233 to R236: a conditional jump writes `pc.next` iff the zero or negative condition or the carry or overflow flag
of register T, as it is now, holds; no flag is cleared by the test; the four bytes. -/
def Obligations.ConditionalJumpsTestTheTarget : Prop :=
  ∀ (d : Word) (s : State),
    (encode (.jz d) = [0xF3, wordByte d 0, wordByte d 1, wordByte d 2, wordByte d 3] ∧
      Completes (.jz d) s fun t => OnlyNext s t (if (s.reg s.target).acc = 0 then d else s.pcNext)) ∧
    (encode (.jn d) = [0xF4, wordByte d 0, wordByte d 1, wordByte d 2, wordByte d 3] ∧
      Completes (.jn d) s fun t => OnlyNext s t (if (s.reg s.target).acc.toInt < 0 then d else s.pcNext)) ∧
    (encode (.jc d) = [0xF5, wordByte d 0, wordByte d 1, wordByte d 2, wordByte d 3] ∧
      Completes (.jc d) s fun t => OnlyNext s t (if (s.reg s.target).carry = true then d else s.pcNext)) ∧
    (encode (.jv d) = [0xF6, wordByte d 0, wordByte d 1, wordByte d 2, wordByte d 3] ∧
      Completes (.jv d) s fun t => OnlyNext s t (if (s.reg s.target).overflow = true then d else s.pcNext))

/-- A whole tick of a conditional jump in plain RAM (40 R137, 46 R230; the spec's decisions D10 and D12, log 13): taken,
the next fetch is at d; not taken, it is past the five bytes; no register, no flag and no byte of RAM changes. -/
def Obligations.ConditionalJumpTickSkipsItsImmediate : Prop :=
  ∀ (s : State) (i : Instr) (d : Word) (taken : Bool),
    Fetches s → CodeAt s i → jumpTest i (s.reg s.target) = some (d, taken) →
    ∃ t, step s = .next t ∧ t.pcNext = (if taken = true then d else s.pcNext + 5) ∧ t.pcCurrent = s.pcNext ∧
      SameRegs s t ∧ t.target = s.target ∧ SameRam s t

/-- A taken jump, whichever it is, has no delay slot and costs no extra tick (40 R143): in its tick `pc.current` is its
own address, it executes with `pc.next` past its bytes, and the next tick fetches at its target. Where JR goes is the
spec's decision D8, and that the skip of the immediate comes before the execution its decision D12 (log 13). -/
def Obligations.JumpHasNoDelaySlot : Prop :=
  ∀ (s : State) (i : Instr) (d : Word), Fetches s → CodeAt s i → takenTarget s i = some d →
    step s = exec i { s.broadcast with pcNext := s.pcNext + BitVec.ofNat 32 (encode i).length } ∧
    ∃ t, step s = .next t ∧ t.pcCurrent = s.pcNext ∧ t.pcNext = d ∧ t.broadcast.pcCurrent = d

/-! ### System -/

/-- R250: NOP changes nothing by execution; its byte. -/
def Obligations.NopChangesNothing : Prop :=
  ∀ s : State, encode .nop = [0xFD] ∧ exec .nop s = .next s

/-- RST clears every register and flag, the target pointer and both program-counter cells, resets every device, stops
the clock, and keeps RAM and the fatal record (the spec's decision D11, log 13; the zeros of the target pointer and of
`pc.current` are its decision D23, log 3). -/
def Obligations.RstResetsAllButRam : Prop :=
  ∀ s : State, encode .rst = [0xFE] ∧
    Completes .rst s fun t => (∀ p, t.reg p = clean 0) ∧ t.target = 0 ∧ t.pcCurrent = 0 ∧ t.pcNext = 0 ∧
      (∀ k d st, s.device? k = some (d, st) → t.dev[k]? = some (d.reset st)) ∧
      t.running = false ∧ t.fatal = s.fatal ∧ SameRam s t ∧ t.platform = s.platform

/-- R252: a tick that executes HLT is a complete tick and stops the clock: `pc.current` is its address and `pc.next`
the byte after it; no tick follows until the environment's `start`, after which the next fetch is at that byte. -/
def Obligations.HltStopsTheClockAfterItsTick : Prop :=
  encode .hlt = [0xFF] ∧
  (∀ s : State, Completes .hlt s fun t => t.running = false ∧ SameRegs s t ∧ t.target = s.target ∧ SamePc s t ∧
    SameRam s t ∧ t.dev = s.dev ∧ t.fatal = s.fatal ∧ t.platform = s.platform) ∧
  (∀ s : State, Fetches s → CodeAt s .hlt →
    ∃ t, step s = .next t ∧ t.running = false ∧ t.fatal = none ∧ t.pcCurrent = s.pcNext ∧ t.pcNext = s.pcNext + 1 ∧
      SameRegs s t ∧ SameRam s t ∧ t.dev = s.broadcast.dev ∧ t.normalEnd = true ∧ step t = .fault .clockStopped ∧
      ∃ u, environment .start t = .next u ∧ u.running = true ∧ u.broadcast.pcCurrent = s.pcNext + 1)

/-! ### The router -/

/-- Accesses that start in RAM (20 R66; the error outside RAM is the spec's decision D18, log 15): bytes and words,
read and written, in range and out of range; a write that raises changes no byte. -/
def Obligations.RamAccesses : Prop :=
  ∀ (s : State) (a : Word) (b : Byte) (v : Word), s.route a = .ram → Memory.wf s.platform.ramSize s.ram = true →
    (a.toNat < s.platform.ramSize →
      memReadByte .read a s = .ok (Memory.read s.ram a.toNat, s) ∧
      ∃ t, memWriteByte a b s = .ok t ∧ Memory.read t.ram a.toNat = b ∧
        (∀ c, c ≠ a.toNat → Memory.read t.ram c = Memory.read s.ram c) ∧
        SameRegs s t ∧ t.target = s.target ∧ SamePc s t ∧ SameRest s t) ∧
    (s.platform.ramSize ≤ a.toNat →
      memReadByte .read a s = .error (s.addressError a 1 .read) ∧
      memWriteByte a b s = .error (s.addressError a 1 .write)) ∧
    (a.toNat + 3 < s.platform.ramSize →
      memReadWord .read a s = .ok (Memory.read s.ram a.toNat ++ Memory.read s.ram (a.toNat + 1) ++
        Memory.read s.ram (a.toNat + 2) ++ Memory.read s.ram (a.toNat + 3), s) ∧
      ∃ t, memWriteWord a v s = .ok t ∧ OnlyWordStored s t a.toNat v) ∧
    (s.platform.ramSize ≤ a.toNat + 3 →
      memReadWord .read a s = .error (s.addressError a 4 .read) ∧
      memWriteWord a v s = .error (s.addressError a 4 .write))

/-- R61: at an address no device claims, a written word reads back, and its four bytes, where no device claims them,
are its big-endian bytes. -/
def Obligations.WordWriteThenReadIsBigEndian : Prop :=
  ∀ (s t : State) (a v : Word), Memory.wf s.platform.ramSize s.ram = true → s.route a = .ram →
    memWriteWord a v s = .ok t →
    memReadWord .read a t = .ok (v, t) ∧
    ∀ (j : Nat) (c : Word), j < 4 → c.toNat = a.toNat + j → s.route c = .ram →
      memReadByte .read c t = .ok (wordByte v j, t)

/-- A word access that starts in RAM and runs onto claimed addresses is a pure RAM access (20 R67; the spec's decision
D19, log 15): the device underneath is not called. -/
def Obligations.RamAccessRunsUnderDevices : Prop :=
  ∀ (s : State) (a v : Word) (j : Nat), Memory.wf s.platform.ramSize s.ram = true → s.route a = .ram →
    a.toNat + 3 < s.platform.ramSize → j < 4 → Platform.route s.platform (a.toNat + j) ≠ .ram →
    (∃ t, memWriteWord a v s = .ok t ∧ t.dev = s.dev ∧ Memory.read t.ram (a.toNat + j) = wordByte v j ∧
      SameRegs s t ∧ SamePc s t) ∧
    ∃ u, memReadWord .read a s = .ok (u, s) ∧ wordByte u j = Memory.read s.ram (a.toNat + j)

/-- An access that starts at a device is one call of that device's handler with the local offset, whole, whatever its
last bytes touch; a refusal records AddressError with kind device_fault (20 R65; the refusal is the spec's decision D18,
log 15). The two core-local windows answer by their maps (10 R40, R42; the spec's decisions D21 and D22, log 14): a byte
read gives the big-endian byte of `pc.current` or of the view of `$TARGET`, a byte write replaces that byte of `pc.next`
or of `$TARGET` and no other, a word access at offset 0 reads or writes the whole word, and at offsets 1 to 3 it is a
device fault. That a refused access leaves the device as it was is the model's choice (log 4). -/
def Obligations.DeviceAccessIsOneCall : Prop :=
  (∀ (s : State) (kind : AccessKind) (a : Word) (k o : Nat) (d : Device) (st : DevState) (b : Byte) (v : Word),
    s.route a = .device k o → s.device? k = some (d, st) →
    memReadByte kind a s = (match d.readByte st o with
      | some (x, st') => .ok (x, s.setDev k st')
      | none => .error (s.raise (.addressError a 1 .deviceFault))) ∧
    memReadWord kind a s = (match d.readInteger st o with
      | some (x, st') => .ok (x, s.setDev k st')
      | none => .error (s.raise (.addressError a 4 .deviceFault))) ∧
    memWriteByte a b s = (match d.writeByte st o b with
      | some st' => .ok (s.setDev k st')
      | none => .error (s.raise (.addressError a 1 .deviceFault))) ∧
    memWriteWord a v s = (match d.writeInteger st o v with
      | some st' => .ok (s.setDev k st')
      | none => .error (s.raise (.addressError a 4 .deviceFault)))) ∧
  (∀ (s : State) (kind : AccessKind) (a : Word) (o : Nat) (b : Byte) (v : Word), s.route a = .pcWindow o →
    memReadByte kind a s = .ok (wordByte s.pcCurrent o, s) ∧
    (∃ t v', memWriteByte a b s = .ok t ∧ OnlyNext s t v' ∧ ReplacesByte s.pcNext o b v') ∧
    (o = 0 → memReadWord kind a s = .ok (s.pcCurrent, s) ∧ ∃ t, memWriteWord a v s = .ok t ∧ OnlyNext s t v) ∧
    (o ≠ 0 → memReadWord kind a s = .error (s.raise (.addressError a 4 .deviceFault)) ∧
      memWriteWord a v s = .error (s.raise (.addressError a 4 .deviceFault)))) ∧
  (∀ (s : State) (kind : AccessKind) (a : Word) (o : Nat) (b : Byte) (v : Word), s.route a = .cpuWindow o →
    memReadByte kind a s = .ok (wordByte (s.view s.target) o, s) ∧
    (∃ t v', memWriteByte a b s = .ok t ∧ OnlyRegister s t s.target (clean v') ∧
      ReplacesByte (s.view s.target) o b v') ∧
    (o = 0 → memReadWord kind a s = .ok (s.view s.target, s) ∧
      ∃ t, memWriteWord a v s = .ok t ∧ OnlyRegister s t s.target (clean v)) ∧
    (o ≠ 0 → memReadWord kind a s = .error (s.raise (.addressError a 4 .deviceFault)) ∧
      memWriteWord a v s = .error (s.raise (.addressError a 4 .deviceFault))))

/-- Isolation of external devices (20 R72, the spec's decision D29): whatever its handlers answer, an access that is
routed to device k changes no register, no program-counter cell, no byte of RAM, not the target pointer, and no other
device. -/
def Obligations.DevicesTouchOnlyThemselves : Prop :=
  ∀ (s t : State) (kind : AccessKind) (a v x : Word) (b y : Byte) (k o : Nat), s.route a = .device k o →
    (memReadByte kind a s = .ok (y, t) ∨ memReadWord kind a s = .ok (x, t) ∨ memWriteByte a b s = .ok t ∨
      memWriteWord a v s = .ok t) →
    SameRegs s t ∧ t.target = s.target ∧ SamePc s t ∧ SameRam s t ∧ t.running = s.running ∧ t.fatal = s.fatal ∧
      t.platform = s.platform ∧ t.dev.length = s.dev.length ∧ ∀ j, j ≠ k → t.dev[j]? = s.dev[j]?

/-! ### Interrupts -/

/-- R71: reading a device's vector clears its pending flag, whatever the device does. -/
def Obligations.VectorReadClearsPending : Prop :=
  ∀ (d : Device) (st st' : DevState) (vec : Word), d.readVector st = some (vec, st') → st'.pending = false

/-- The arbiter takes a pending source iff there is one; with no scan order given it is the first in the order of
`DEVICES` (60 R269, R270; the order is the spec's decision D15, log 6). -/
def Obligations.ArbiterTakesTheFirstPendingSource : Prop :=
  ∀ s : State, (s.arbitrate = none ↔ ∀ k, s.sourcePending k = false) ∧
    (∀ k, s.arbitrate = some k → s.sourcePending k = true) ∧
    (s.platform.scanOrder = [] → ∀ k, s.arbitrate = some k → ∀ j, j < k → s.sourcePending j = false)

/-- The source's interrupt property (60 R273), with the address it saves as the spec's decision D13 reads it, the `next`
after the broadcast (log 13): with exactly one source pending after the broadcast, one tick leaves `$RETURN` at the
`next` the arbiter found, `pc.next` at that source's vector, and executes nothing: every other register, the target
pointer and RAM are unchanged. -/
def Obligations.OnePendingSourceIsVectored : Prop :=
  ∀ (s : State) (k : Nat) (d : Device) (st : DevState), s.running = true → s.fatal = none →
    (∀ j, s.broadcast.sourcePending j = decide (j = k)) → s.broadcast.device? k = some (d, st) →
    ∃ t vec inner, step s = .next t ∧ d.vector st = some (vec, inner) ∧ t.view returnIndex = s.pcNext + 1 ∧
      t.pcCurrent = s.pcNext ∧ t.pcNext = vec ∧
      (∀ p, p ≠ returnIndex → t.reg p = s.reg p) ∧ t.target = s.target ∧ SameRam s t

/-- Interrupt entry whole (60 R272; the spec's decisions D13 and D14, log 13): `$RETURN` is the address of the
unexecuted opcode plus one with its flags cleared, `pc.next` the vector of the chosen source, the source no longer
pending, every other device as the broadcast left it, and nothing else changed. -/
def Obligations.InterruptEntryFrame : Prop :=
  ∀ (s : State) (k : Nat), TakesInterrupt s k →
    ∃ t d st vec inner, step s = .next t ∧ s.broadcast.device? k = some (d, st) ∧ st.pending = true ∧
      d.vector st = some (vec, inner) ∧ t.reg returnIndex = clean (s.pcNext + 1) ∧ t.pcCurrent = s.pcNext ∧
      t.pcNext = vec ∧ t.dev = s.broadcast.dev.set k ⟨false, inner⟩ ∧
      (∀ p, p ≠ returnIndex → t.reg p = s.reg p) ∧ t.target = s.target ∧ SameRam s t ∧ t.running = true ∧
      t.fatal = none ∧ t.platform = s.platform

/-- Return from an interrupt (60 R275, 70 R311; the spec's decisions D8, D9 and D13, log 13): after an entry that struck
at A, a bare JR 15 goes to A + 1, and SEL 15; DEC; JR 15 goes to A and leaves T = 15. -/
def Obligations.HandlerReturnAddresses : Prop :=
  ∀ (s : State) (k : Nat), TakesInterrupt s k →
    ∃ t, step s = .next t ∧
      (∃ u, exec (.jr 15) t = .next u ∧ u.pcNext = s.pcNext + 1) ∧
      ∃ u v w, exec (.sel 15) t = .next u ∧ exec .dec u = .next v ∧ exec (.jr 15) v = .next w ∧
        w.pcNext = s.pcNext ∧ w.target = 15

/-- Two entries in a row (60 R271, R272, R276, 70 R313; the spec's decisions D13 and D16, log 13): after an entry for
device k, which went to k's vector, a source k' pending at the next tick is taken at once. `$RETURN` becomes the first
vector plus one with its flags clear, so the first return address is lost; `pc.current` is the first vector, whose
handler has not started; `pc.next` is the vector of k', whose pending flag is cleared; no other register, the target
pointer or RAM has changed since before the first entry. -/
def Obligations.SecondEntryOverwritesReturn : Prop :=
  ∀ (s t : State) (k k' : Nat), TakesInterrupt s k → step s = .next t → t.broadcast.arbitrate = some k' →
    ∃ u d st vec inner d' st' vec' inner',
      s.broadcast.device? k = some (d, st) ∧ d.vector st = some (vec, inner) ∧
      t.broadcast.device? k' = some (d', st') ∧ d'.vector st' = some (vec', inner') ∧
      t.reg returnIndex = clean (s.pcNext + 1) ∧ t.pcNext = vec ∧
      step t = .next u ∧ u.reg returnIndex = clean (vec + 1) ∧ u.pcCurrent = vec ∧ u.pcNext = vec' ∧
      u.dev = t.broadcast.dev.set k' ⟨false, inner'⟩ ∧
      (∀ p, p ≠ returnIndex → u.reg p = s.reg p) ∧ u.target = s.target ∧ SameRam s u

/-! ### The tick -/

/-- A tick happens exactly while the clock runs and no fatal error is recorded (40 R131, the spec's decision D31, logs 7
and 8); otherwise the step is the named stop. No instruction, device or interrupt ends a step without a next state. What
the environment's other operations do (10 R37, R50; the spec's decision D26, log 11): a tick is one step, a stop clears
the run bit and changes nothing else, and a start with no fatal error recorded sets it and changes nothing else. -/
def Obligations.TickHappensExactlyWhileRunning : Prop :=
  ∀ s : State, ((∃ t, step s = .next t) ↔ s.running = true ∧ s.fatal = none) ∧
    (s.fatal = none → s.running = false → step s = .fault .clockStopped) ∧
    (∀ e, s.fatal = some e → step s = .fault (.fatalError e)) ∧
    environment .tick s = step s ∧
    (∃ t, environment .stop s = .next t ∧ t.running = false ∧ SameButRunning s t) ∧
    (s.fatal = none → ∃ t, environment .start s = .next t ∧ t.running = true ∧ SameButRunning s t)

/-- A fatal error is sticky (60 R264, the spec's decisions D26 and D27, logs 7 and 11): no tick and no start happens
after it, a stop keeps it, and power-on reset leaves it. -/
def Obligations.FatalErrorIsSticky : Prop :=
  ∀ (s : State) (e : FatalError), s.fatal = some e →
    environment .tick s = .fault (.fatalError e) ∧ environment .start s = .fault (.fatalError e) ∧
    (∃ t, environment .stop s = .next t ∧ t.fatal = some e) ∧
    (∃ t, environment .powerOnReset s = .next t ∧ t.fatal = none ∧ t.platform = s.platform)

/-- A fetch outside RAM and every device (40 R135, R140, 60 R262; the spec's decision D18, log 15) records
AddressError(address, 1, fetch); the tick's phase 1 stays: the program counter has advanced and every device has ticked
(40 R133); nothing else changes. -/
def Obligations.FetchOutsideRamIsFatal : Prop :=
  ∀ s : State, Fetches s → s.route s.pcNext = .ram → s.platform.ramSize ≤ s.pcNext.toNat →
    ∃ t, step s = .next t ∧ t.fatal = some (.addressError s.pcNext 1 .fetch) ∧ t.pcCurrent = s.pcNext ∧
      t.pcNext = s.pcNext + 1 ∧ t.dev = s.broadcast.dev ∧
      (∀ k d st, s.device? k = some (d, st) → t.dev[k]? = some (d.tick st)) ∧
      SameRegs s t ∧ t.target = s.target ∧ SameRam s t ∧
      t.running = true

/-- A wide opcode whose immediate runs past RAM (40 R137, R140, 60 R262; the spec's decision D18, log 15) records
AddressError(address + 1, 4, immediate) with the immediate not skipped (the read comes before the skip: the spec's
decision D12, log 13); no register changes. -/
def Obligations.ImmediateOutsideRamIsFatal : Prop :=
  ∀ s : State, Fetches s → PlainRam s s.pcNext.toNat 1 →
    0xF0 ≤ (Memory.read s.ram s.pcNext.toNat).toNat → (Memory.read s.ram s.pcNext.toNat).toNat ≤ 0xF6 →
    s.route (s.pcNext + 1) = .ram → s.platform.ramSize ≤ (s.pcNext + 1).toNat + 3 →
    ∃ t, step s = .next t ∧ t.fatal = some (.addressError (s.pcNext + 1) 4 .immediate) ∧
      t.pcCurrent = s.pcNext ∧ t.pcNext = s.pcNext + 1 ∧ SameRegs s t ∧ t.target = s.target ∧ SameRam s t

/-- A step runs the decoded instruction (40 R130, R132, R133, R135 to R138; 60 R280). Phase 1, the broadcast, moves
`pc.next` into `pc.current` and one past it into `pc.next`, calls the tick of every external device once, and changes
nothing else. When no source is pending and the bytes of plain RAM at the next fetch address decode to i, the step is
exec of i in the state after the broadcast, with `pc.next` moved past the instruction's bytes. Wherever the bytes come
from, a device included: the step is exec of what the opcode byte that the router read, with the immediate it read for a
wide opcode, decodes to. That the immediate is skipped before the instruction executes is the spec's decision D12 (log
13). -/
def Obligations.StepRunsTheDecodedInstruction : Prop :=
  (∀ s : State, s.broadcast.pcCurrent = s.pcNext ∧ s.broadcast.pcNext = s.pcNext + 1 ∧
    (∀ k d st, s.device? k = some (d, st) → s.broadcast.dev[k]? = some (d.tick st)) ∧
    SameRegs s s.broadcast ∧ s.broadcast.target = s.target ∧ SameRam s s.broadcast ∧
    s.broadcast.running = s.running ∧ s.broadcast.fatal = s.fatal ∧ s.broadcast.platform = s.platform) ∧
  (∀ (s : State) (n : Nat) (i : Instr) (rest : List Byte), Fetches s → PlainRam s s.pcNext.toNat n →
    decode (ramBytes s s.pcNext.toNat n) = .ok (i, rest) → i.wellFormed = true →
    step s = exec i { s.broadcast with pcNext := s.pcNext + BitVec.ofNat 32 (encode i).length }) ∧
  (∀ (s u : State) (b : Byte) (i : Instr), Fetches s → memReadByte .fetch s.pcNext s.broadcast = .ok (b, u) →
    decode [b] = .ok (i, []) → i.wellFormed = true → step s = exec i u) ∧
  (∀ (s u v : State) (b : Byte) (d : Word) (i : Instr), Fetches s →
    memReadByte .fetch s.pcNext s.broadcast = .ok (b, u) → memReadWord .immediate (s.pcNext + 1) u = .ok (d, v) →
    decode [b, wordByte d 0, wordByte d 1, wordByte d 2, wordByte d 3] = .ok (i, []) → i.wellFormed = true →
    step s = exec i { v with pcNext := s.pcNext + 5 })

/-- R142: the source's LDN scenario, step by step: image F0 00 00 00 05, reset state, clock started. Tick 1: phase 1
makes `pc.current` 0 and `pc.next` 1; no source is pending; the opcode byte is F0 and the immediate 5; the tick leaves
5 in register 0 with its flags clear, `pc.current = 0` and `pc.next = 5`; phase 1 of tick 2 makes them 5 and 6. -/
def Obligations.LdnScenario : Prop :=
  ∃ s u t, bringUp { Platform.reference with image := [0xF0, 0x00, 0x00, 0x00, 0x05] } = .ok s ∧
    s.pcCurrent = 0 ∧ s.pcNext = 0 ∧ s.target = 0 ∧ (∀ q, s.reg q = clean 0) ∧
    environment .start s = .next u ∧
    u.broadcast.pcCurrent = 0 ∧ u.broadcast.pcNext = 1 ∧ u.broadcast.arbitrate = none ∧
    memReadByte .fetch 0 u.broadcast = .ok (0xF0, u.broadcast) ∧
    memReadWord .immediate 1 u.broadcast = .ok (5, u.broadcast) ∧
    environment .tick u = .next t ∧
    t.reg 0 = clean 5 ∧ t.target = 0 ∧ t.pcCurrent = 0 ∧ t.pcNext = 5 ∧
    t.broadcast.pcCurrent = 5 ∧ t.broadcast.pcNext = 6

/-! ### Encoding -/

/-- Decode and encode agree: every instruction, every operand, whatever bytes follow. -/
def Obligations.DecodeEncodeRoundTrip : Prop :=
  ∀ (i : Instr) (rest : List Byte), i.wellFormed = true → decode (encode i ++ rest) = .ok (i, rest)

/-- Each byte sequence that decodes is the encoding of what it decodes to: no bit of an encoding is ignored. -/
def Obligations.EncodeDecodeRoundTrip : Prop :=
  ∀ (bytes : List Byte) (i : Instr) (rest : List Byte), decode bytes = .ok (i, rest) → encode i ++ rest = bytes

/-- The opcode byte alone gives the length: 5 bytes for 0xF0 to 0xF6, else 1 (30 R104, which the spec derives from R100
to R103). -/
def Obligations.OpcodeByteGivesTheLength : Prop :=
  ∀ i : Instr, ∃ b rest, encode i = b :: rest ∧
    rest.length = if 0xF0 ≤ b.toNat ∧ b.toNat ≤ 0xF6 then 4 else 0

/-- All 256 opcode bytes decode, so DecodeError is unreachable (30 R110, which the spec derives from R107 and R108): no
step ever records one. -/
def Obligations.EveryOpcodeByteDecodes : Prop :=
  (∀ b b0 b1 b2 b3 : Byte, ∃ i rest, decode [b, b0, b1, b2, b3] = .ok (i, rest)) ∧
  (∀ (s t : State) (a : Word) (b : Byte), step s = .next t → t.fatal ≠ some (.decodeError a b))

/-- R108: words written out from the opcode map decode to the instructions they stand for. -/
def Obligations.SpecWordsDecode : Prop :=
  decode [0x43] = .ok (.cp 3, []) ∧ decode [0x8F] = .ok (.add 15, []) ∧ decode [0xCF] = .ok (.shl 15, []) ∧
  decode [0x3F] = .ok (.jr 15, []) ∧ decode [0xF0, 0x00, 0x00, 0x00, 0x05] = .ok (.ldn 5, []) ∧
  decode [0xF6, 0x12, 0x34, 0x56, 0x78] = .ok (.jv 0x12345678, []) ∧ decode [0xF7] = .ok (.com, []) ∧
  decode [0xFF] = .ok (.hlt, [])

/-! ### Whole-machine rules -/

/-- Every step keeps the state invariant: RAM in canonical form and inside RAM_SIZE, one device state per device, a
platform that bring-up accepts. Which ranges and images are legal is the spec's decisions D20 and D24 and the bound on
RAM_SIZE (log 17). -/
def Obligations.StepKeepsWellFormed : Prop :=
  ∀ s t : State, s.wellFormed = true → step s = .next t → t.wellFormed = true

/-- The invariant holds at reset. -/
def Obligations.ResetIsWellFormed : Prop := State.reset.wellFormed = true

/-- The configuration never changes after bring-up (10 R34, 20 R63): the device map, RAM_SIZE and the windows after a
step are those before it. -/
def Obligations.PlatformNeverChanges : Prop :=
  ∀ s t : State, step s = .next t → t.platform = s.platform

/-- The target pointer is written only by SEL and by reset (10 R29). That RST writes it is the spec's decision D11 (log
13), and that no window reaches it D21 and D22 (log 14). -/
def Obligations.TargetWrittenOnlyBySelAndRst : Prop :=
  ∀ (i : Instr) (s t : State), exec i s = .next t → (∀ r, i ≠ .sel r) → i ≠ .rst → t.target = s.target

/-- Only STR and STN write RAM (10 R25, 20 R76), and only at the four bytes of the address they compute. Which address
that is, its width, and that RST leaves RAM alone are the spec's decisions D6, D7, D30 and D11 (log 13). -/
def Obligations.OnlyStoresWriteRam : Prop :=
  ∀ (i : Instr) (s t : State), exec i s = .next t →
    (storeAddress s i = none → SameRam s t) ∧
    (∀ a, storeAddress s i = some a →
      ∀ c, c < a.toNat ∨ a.toNat + 4 ≤ c → Memory.read t.ram c = Memory.read s.ram c)

/-- No instruction but RST writes `pc.current` (10 R30, R31: writes always target `next`). That RST writes it is the
spec's decision D11 (log 13), and that a store to the PC window writes `next` D21 (log 14). -/
def Obligations.CurrentIsStableDuringATick : Prop :=
  ∀ (i : Instr) (s t : State), exec i s = .next t → i ≠ .rst → t.pcCurrent = s.pcCurrent

/-- Which registers an instruction can write (10 R25): `$TARGET`; register r for CP r; all for RST. The table of R25 is
derived by the spec from the rules of the instructions: that LDR r writes `$TARGET` is its decision D5, that STR and STN
write no register D6 and D7, that JR links nothing D8, that CLR and UNO write `$TARGET` D9, that RST clears all D11 (log
13); that the CPU window reaches only `$TARGET` is D22 and that the PC window reaches no register D21 (log 14). -/
def Obligations.OtherRegistersAreUnchanged : Prop :=
  ∀ (i : Instr) (s t : State) (p : Nibble), exec i s = .next t → p ≠ s.target → i ≠ .cp p → i ≠ .rst →
    t.reg p = s.reg p

/-- Only HLT and RST stop the clock, and no instruction starts it (10 R37). That RST both resets and stops the clock is
the spec's decision D11 (log 13). -/
def Obligations.OnlyHltAndRstStopTheClock : Prop :=
  ∀ (i : Instr) (s t : State), exec i s = .next t → t.running = (s.running && decide (i ≠ .hlt ∧ i ≠ .rst))

/-- Carry is read only by JC and overflow only by JV (10 R27, 41 R160): two states that differ only in flags are taken
by every other instruction to two states that differ only in flags. What LDR, STR, STN, JR and the zero-operand
instructions read is the spec's decisions D5 to D9 (log 13), and what the windows expose D21 and D22 (log 14). -/
def Obligations.FlagsAreReadOnlyByJcAndJv : Prop :=
  ∀ (i : Instr) (s s' : State), SameButFlags s s' → (∀ d, i ≠ .jc d) → (∀ d, i ≠ .jv d) →
    ∃ t t', exec i s = .next t ∧ exec i s' = .next t' ∧ SameButFlags t t'

/-! ### Reset and bring-up -/

/-- The state after bring-up (10 R45; the values of D23 and D24 are the spec's decisions, log 3), to which power-on
reset returns from every state of that platform (10 R50): registers and flags zero, target pointer and program counter
zero, RAM the image and then zero, clock stopped, no fatal error. Every device is in its configured initial state, which
is what its `reset()` makes of the state its configuration left (20 R70; the model's reading of R70 beside R45, log 12). -/
def Obligations.PowerOnValues : Prop :=
  ∀ (p : Platform) (s : State), bringUp p = .ok s →
    s.wellFormed = true ∧
    (∀ q, s.reg q = clean 0 ∧ (s.reg q).isZero = true ∧ (s.reg q).isNegative = false) ∧
    s.target = 0 ∧ s.pcCurrent = 0 ∧ s.pcNext = 0 ∧
    (∀ (a : Nat) (b : Byte), p.image[a]? = some b → Memory.read s.ram a = b) ∧
    (∀ a, p.image.length ≤ a → Memory.read s.ram a = 0) ∧
    (∀ k : Nat, s.dev[k]? = p.devices[k]?.map fun d => d.reset d.configured) ∧
    s.running = false ∧ s.fatal = none ∧ s.platform = p ∧
    (∀ u : State, u.platform = p → environment .powerOnReset u = .next s)

/-- R73: no platform two of whose ranges share an address is brought up; one that is otherwise in order is refused for
that reason exactly when two share one, and is brought up when none do, adjacent ranges included; what sharing an
address means, in R73's inequalities. -/
def Obligations.OverlappingRangesAreRefused : Prop :=
  (∀ p : Platform, (¬ p.ranges.Pairwise fun q r => ¬ shareAddress q r) → ∃ e, bringUp p = .error e) ∧
  (∀ p : Platform, 1 ≤ p.ramSize → p.ramSize ≤ 2 ^ 32 → p.image.length ≤ p.ramSize →
    (∀ q ∈ p.ranges, 1 ≤ q.2 ∧ q.1 + q.2 ≤ 2 ^ 32) →
    (bringUp p = .error .overlappingRanges ↔ ¬ p.ranges.Pairwise fun q r => ¬ shareAddress q r) ∧
    (p.ranges.Pairwise (fun q r => ¬ shareAddress q r) → ∃ s, bringUp p = .ok s)) ∧
  (∀ q r : Range, 1 ≤ q.2 → 1 ≤ r.2 → (shareAddress q r ↔ q.1 < r.1 + r.2 ∧ r.1 < q.1 + q.2))

/-- Bring-up refuses exactly the configurations of 70 R303 (the checks on ranges and on the image are the spec's
decisions D20 and D24; the bound on RAM_SIZE is read from 00 R5, log 17). -/
def Obligations.BringUpRefusals : Prop :=
  ∀ p : Platform, (∃ e, bringUp p = .error e) ↔
    (p.ramSize = 0 ∨ 2 ^ 32 < p.ramSize ∨ (∃ q ∈ p.ranges, q.2 = 0 ∨ 2 ^ 32 < q.1 + q.2) ∨
      (¬ p.ranges.Pairwise fun q r => ¬ shareAddress q r) ∨ p.ramSize < p.image.length)
end

