-- ==== Sys2Proof/Laws/Alu.lean ====
section
/-! SUPPORT. What each primitive leaves in a 32-bit register, in bit-vector terms; the exact integers of the
definitions are gone from the results. -/

namespace Sys2Proof.Machine

/-- At W = 32 the view is the accumulator (R21). -/
@[simp] theorem Reg.view_eq_acc (r : Register) : r.view = r.acc := by
  simp [Reg.view]

/-- The range flag, as the two ways of leaving the signed 32-bit range (R7). -/
theorem rangeFlag_eq (z : Int) : rangeFlag z = decide (z < -2147483648 ∨ 2147483647 < z) := by
  rw [Bool.eq_iff_iff]
  simp only [rangeFlag, inRange32, Bool.not_eq_true', Bool.and_eq_false_iff, decide_eq_false_iff_not, decide_eq_true_eq]
  omega

theorem Reg.isZero_eq {w : Nat} (r : Reg w) : r.isZero = decide (r.acc = 0#w) := by
  simp only [Reg.isZero]
  congr 1
  rw [← BitVec.toInt_zero (w := w), BitVec.toInt_inj]

theorem Reg.isNegative_eq {w : Nat} (r : Reg w) : r.isNegative = r.acc.msb := by
  simp only [Reg.isNegative]
  rw [BitVec.msb_eq_toInt]

theorem Reg.set_toInt {w : Nat} (v : BitVec w) : (Reg.set v.toInt : Reg w) = ⟨v, false, false⟩ := by
  simp [Reg.set, Reg.ofExact]

theorem Reg.addTo_acc {w : Nat} (r : Reg w) (d : Int) : (r.addTo d).acc = r.acc + BitVec.ofInt w d := by
  simp [Reg.addTo, BitVec.ofInt_add]

theorem Reg.multiplyBy_acc {w : Nat} (r : Reg w) (d : Int) : (r.multiplyBy d).acc = r.acc * BitVec.ofInt w d := by
  simp [Reg.multiplyBy, BitVec.ofInt_mul]

theorem Reg.divideBy_zero {w : Nat} (r : Reg w) : r.divideBy 0 = ⟨r.acc, true, true⟩ := by
  simp [Reg.divideBy]

theorem Reg.complement_eq {w : Nat} (r : Reg w) : r.complement = ⟨~~~r.acc, false, false⟩ := by
  have h : -r.acc.toInt - 1 = -r.acc.toInt + -1 := by ring
  simp only [Reg.complement, Reg.ofExact, h, BitVec.ofInt_add, BitVec.ofInt_neg, BitVec.ofInt_toInt]
  congr 1
  rw [BitVec.not_eq_neg_add, BitVec.sub_eq_add_neg]
  simp

theorem Reg.negate_eq {w : Nat} (r : Reg w) : r.negate = ⟨-r.acc, false, false⟩ := by
  simp [Reg.negate, Reg.ofExact, BitVec.ofInt_neg]

end Sys2Proof.Machine
end

