-- ==== Sys2Proof/Laws/Memory.lean ====
section
/-! SUPPORT. The laws of the RAM byte store: read after write, everything else unchanged, the canonical form kept by
every operation; and the word read and written in bytes. -/

namespace Sys2Proof.Machine

/-- Raising the size bound keeps the form; so does lowering the first address. -/
theorem Memory.wfFrom_mono {lo lo' size : Nat} (m : Memory) (h : lo' ≤ lo) (hw : Memory.wfFrom lo size m = true) :
    Memory.wfFrom lo' size m = true := by
  cases m with
  | nil => rfl
  | cons c rest =>
    simp only [Memory.wfFrom, Bool.and_eq_true, decide_eq_true_eq] at hw ⊢
    exact ⟨⟨⟨by omega, hw.1.1.2⟩, hw.1.2⟩, hw.2⟩

/-- No address below `lo` is listed. -/
theorem Memory.read_below {lo size : Nat} (m : Memory) (hw : Memory.wfFrom lo size m = true) {a : Nat} (h : a < lo) :
    Memory.read m a = Memory.unlisted := by
  induction m generalizing lo with
  | nil => rfl
  | cons c rest ih =>
    simp only [Memory.wfFrom, Bool.and_eq_true, decide_eq_true_eq] at hw
    have hne : a ≠ c.1 := by omega
    simp only [Memory.read, hne, if_false]
    exact ih hw.2 (by omega)

/-- No address at or above the size is listed. -/
theorem Memory.read_above {lo size : Nat} (m : Memory) (hw : Memory.wfFrom lo size m = true) {a : Nat} (h : size ≤ a) :
    Memory.read m a = Memory.unlisted := by
  induction m generalizing lo with
  | nil => rfl
  | cons c rest ih =>
    simp only [Memory.wfFrom, Bool.and_eq_true, decide_eq_true_eq] at hw
    have hne : a ≠ c.1 := by omega
    simp only [Memory.read, hne, if_false]
    exact ih hw.2

theorem Memory.read_cons_ne (a : Nat) (b : Byte) (rest : Memory) {c : Nat} (h : c ≠ a) :
    Memory.read (Memory.cons a b rest) c = Memory.read rest c := by
  unfold Memory.cons
  split <;> simp [Memory.read, h]

theorem Memory.read_cons_self (a : Nat) (b : Byte) (rest : Memory) (h : Memory.read rest a = Memory.unlisted) :
    Memory.read (Memory.cons a b rest) a = b := by
  unfold Memory.cons
  split
  · next hb => rw [h, hb]
  · simp [Memory.read]

theorem Memory.wfFrom_cons {lo size a : Nat} (b : Byte) (rest : Memory) (hlo : lo ≤ a) (ha : a < size)
    (hw : Memory.wfFrom (a + 1) size rest = true) : Memory.wfFrom lo size (Memory.cons a b rest) = true := by
  unfold Memory.cons
  split
  · exact Memory.wfFrom_mono rest (by omega) hw
  · next hb => simp [Memory.wfFrom, hlo, ha, hb, hw]

/-- A write leaves every other address alone, in any list of cells. -/
theorem Memory.read_write_ne (m : Memory) {a c : Nat} (b : Byte) (h : c ≠ a) :
    Memory.read (Memory.write m a b) c = Memory.read m c := by
  induction m with
  | nil => exact Memory.read_cons_ne a b [] h
  | cons p rest ih =>
    simp only [Memory.write]
    split
    · exact Memory.read_cons_ne a b _ h
    · split
      · next he =>
        subst he
        rw [Memory.read_cons_ne _ b rest h]
        simp [Memory.read, h]
      · simp only [Memory.read, ih]

/-- A read after a write to the same address gives the byte written. -/
theorem Memory.read_write_self {lo size : Nat} (m : Memory) (hw : Memory.wfFrom lo size m = true) (a : Nat) (b : Byte) :
    Memory.read (Memory.write m a b) a = b := by
  induction m generalizing lo with
  | nil => exact Memory.read_cons_self a b [] rfl
  | cons p rest ih =>
    have hw' := hw
    simp only [Memory.wfFrom, Bool.and_eq_true, decide_eq_true_eq] at hw
    simp only [Memory.write]
    split
    · next hlt =>
      refine Memory.read_cons_self a b _ ?_
      simp only [Memory.read, Nat.ne_of_lt hlt, if_false]
      exact Memory.read_below rest hw.2 (by omega)
    · split
      · next he => exact Memory.read_cons_self a b rest (Memory.read_below rest hw.2 (by omega))
      · next hne =>
        simp only [Memory.read, hne, if_false]
        exact ih hw.2

theorem Memory.wfFrom_write {lo size : Nat} (m : Memory) {a : Nat} (b : Byte) (hw : Memory.wfFrom lo size m = true)
    (hlo : lo ≤ a) (ha : a < size) : Memory.wfFrom lo size (Memory.write m a b) = true := by
  induction m generalizing lo with
  | nil => exact Memory.wfFrom_cons b [] hlo ha rfl
  | cons p rest ih =>
    have hp := hw
    simp only [Memory.wfFrom, Bool.and_eq_true, decide_eq_true_eq] at hw
    simp only [Memory.write]
    split
    · next hlt =>
      refine Memory.wfFrom_cons b _ hlo ha ?_
      simp only [Memory.wfFrom, Bool.and_eq_true, decide_eq_true_eq]
      exact ⟨⟨⟨by omega, hw.1.1.2⟩, hw.1.2⟩, hw.2⟩
    · split
      · next he => exact Memory.wfFrom_cons b rest hlo ha (he ▸ hw.2)
      · simp only [Memory.wfFrom, Bool.and_eq_true, decide_eq_true_eq]
        exact ⟨⟨⟨hw.1.1.1, hw.1.1.2⟩, hw.1.2⟩, ih hw.2 (by omega)⟩

/-- A write inside RAM keeps the canonical form. -/
theorem Memory.wf_write {size : Nat} (m : Memory) {a : Nat} (b : Byte) (hw : Memory.wf size m = true) (ha : a < size) :
    Memory.wf size (Memory.write m a b) = true :=
  Memory.wfFrom_write m b hw (Nat.zero_le a) ha

/-- Loading bytes inside RAM keeps the canonical form. -/
theorem Memory.wf_load {size : Nat} (m : Memory) (a : Nat) (bs : List Byte) (hw : Memory.wf size m = true)
    (ha : a + bs.length ≤ size) : Memory.wf size (Memory.load m a bs) = true := by
  induction bs generalizing m a with
  | nil => exact hw
  | cons b bs ih =>
    simp only [List.length_cons] at ha
    exact ih _ _ (Memory.wf_write m b hw (by omega)) (by omega)

/-- Loading leaves every address outside the loaded bytes alone. -/
theorem Memory.read_load_outside (m : Memory) (a : Nat) (bs : List Byte) {c : Nat} (h : c < a ∨ a + bs.length ≤ c) :
    Memory.read (Memory.load m a bs) c = Memory.read m c := by
  induction bs generalizing m a with
  | nil => rfl
  | cons b bs ih =>
    simp only [List.length_cons] at h
    simp only [Memory.load]
    rw [ih _ _ (by omega), Memory.read_write_ne m b (by omega)]

/-- A loaded byte reads back. -/
theorem Memory.read_load_inside {size : Nat} (m : Memory) (a : Nat) (bs : List Byte) (hw : Memory.wf size m = true)
    (ha : a + bs.length ≤ size) {j : Nat} (hj : j < bs.length) : Memory.read (Memory.load m a bs) (a + j) = bs[j] := by
  induction bs generalizing m a j with
  | nil => simp at hj
  | cons b bs ih =>
    simp only [List.length_cons] at ha hj
    simp only [Memory.load]
    cases j with
    | zero =>
      rw [Memory.read_load_outside _ _ _ (by omega)]
      exact Memory.read_write_self m hw a b
    | succ j =>
      have h := ih (Memory.write m a b) (a + 1) (Memory.wf_write m b hw (by omega)) (by omega) (j := j) (by omega)
      have e : a + 1 + j = a + (j + 1) := by omega
      rw [e] at h
      simpa using h

/-- The four bytes of a word, put together again (R61). -/
theorem wordOfBytes_byteOfWord (v : Word) :
    wordOfBytes (byteOfWord v 0) (byteOfWord v 1) (byteOfWord v 2) (byteOfWord v 3) = v := by
  apply BitVec.eq_of_getLsbD_eq
  intro i hi
  simp only [wordOfBytes, byteOfWord, BitVec.getLsbD_append, BitVec.getLsbD_extractLsb']
  grind

/-- Replacing one byte of a word gives that byte and leaves the other three (R40, R42). -/
theorem byteOfWord_replaceByte (v : Word) (b : Byte) {k j : Nat} (hk : k < 4) (hj : j < 4) :
    byteOfWord (replaceByte v k b) j = if j = k then b else byteOfWord v j := by
  have hk' : k = 0 ∨ k = 1 ∨ k = 2 ∨ k = 3 := by omega
  have hj' : j = 0 ∨ j = 1 ∨ j = 2 ∨ j = 3 := by omega
  rcases hk' with rfl | rfl | rfl | rfl <;> rcases hj' with rfl | rfl | rfl | rfl <;>
    (apply BitVec.eq_of_getLsbD_eq; intro i hi; interval_cases i <;> simp [byteOfWord, replaceByte])

/-- A byte outside the four stored ones reads as before (R66). -/
theorem Memory.read_writeWord_outside (m : Memory) (a : Nat) (v : Word) {c : Nat} (h : c < a ∨ a + 4 ≤ c) :
    Memory.read (Memory.writeWord m a v) c = Memory.read m c :=
  Memory.read_load_outside m a _ h

/-- The stored bytes read back big-endian (R61, R66). -/
theorem Memory.read_writeWord_inside {size : Nat} (m : Memory) (a : Nat) (v : Word) (hw : Memory.wf size m = true)
    (ha : a + 4 ≤ size) {j : Nat} (hj : j < 4) : Memory.read (Memory.writeWord m a v) (a + j) = byteOfWord v j := by
  have h := Memory.read_load_inside m a [byteOfWord v 0, byteOfWord v 1, byteOfWord v 2, byteOfWord v 3] hw ha (j := j) hj
  refine h.trans ?_
  match j, hj with
  | 0, _ => rfl
  | 1, _ => rfl
  | 2, _ => rfl
  | 3, _ => rfl

theorem Memory.wf_writeWord {size : Nat} (m : Memory) (a : Nat) (v : Word) (hw : Memory.wf size m = true)
    (ha : a + 4 ≤ size) : Memory.wf size (Memory.writeWord m a v) = true :=
  Memory.wf_load m a _ hw ha

end Sys2Proof.Machine
end

