-- ==== Sys2Proof/Laws/PerInstr.lean ====
section
/-! SUPPORT. Statements about every instruction as syntax, one lemma per constructor. -/

namespace Sys2Proof.Laws.OpcodeRow

/-- The row of spec/opcode_table.json for an instruction: `opcode_byte_match`, `opcode_byte_mask`, `length_bytes`,
copied from the table. -/
def row : Instr → Byte × Byte × Nat
  | .sel _ => (0x00, 0xF0, 1)
  | .ldr _ => (0x10, 0xF0, 1)
  | .str _ => (0x20, 0xF0, 1)
  | .jr _ => (0x30, 0xF0, 1)
  | .cp _ => (0x40, 0xF0, 1)
  | .and _ => (0x50, 0xF0, 1)
  | .or _ => (0x60, 0xF0, 1)
  | .xor _ => (0x70, 0xF0, 1)
  | .add _ => (0x80, 0xF0, 1)
  | .sub _ => (0x90, 0xF0, 1)
  | .mul _ => (0xA0, 0xF0, 1)
  | .div _ => (0xB0, 0xF0, 1)
  | .shl _ => (0xC0, 0xF0, 1)
  | .shr _ => (0xD0, 0xF0, 1)
  | .ssr _ => (0xE0, 0xF0, 1)
  | .ldn _ => (0xF0, 0xFF, 5)
  | .stn _ => (0xF1, 0xFF, 5)
  | .j _ => (0xF2, 0xFF, 5)
  | .jz _ => (0xF3, 0xFF, 5)
  | .jn _ => (0xF4, 0xFF, 5)
  | .jc _ => (0xF5, 0xFF, 5)
  | .jv _ => (0xF6, 0xFF, 5)
  | .com => (0xF7, 0xFF, 1)
  | .neg => (0xF8, 0xFF, 1)
  | .inc => (0xF9, 0xFF, 1)
  | .dec => (0xFA, 0xFF, 1)
  | .clr => (0xFB, 0xFF, 1)
  | .uno => (0xFC, 0xFF, 1)
  | .nop => (0xFD, 0xFF, 1)
  | .rst => (0xFE, 0xFF, 1)
  | .hlt => (0xFF, 0xFF, 1)

/-- The encoding has the row's length, and its opcode byte matches the row under the row's mask (R101 to R103,
R108). -/
def Statement (i : Instr) : Prop :=
  (encode i).length = (row i).2.2 ∧ ∀ b ∈ (encode i).head?, b &&& (row i).2.1 = (row i).1

/-- A nibble-operand byte under the family mask is its family. -/
theorem family_of_nibble : ∀ f r : Nibble, (f ++ r : Byte) &&& 0xF0#8 = f ++ 0#4 := by decide +kernel

theorem sel (x : Nibble) : Statement (.sel x) :=
  ⟨rfl, by simp [encode, encodeNibble, row, family_of_nibble]⟩

theorem ldr (x : Nibble) : Statement (.ldr x) :=
  ⟨rfl, by simp [encode, encodeNibble, row, family_of_nibble]⟩

theorem str (x : Nibble) : Statement (.str x) :=
  ⟨rfl, by simp [encode, encodeNibble, row, family_of_nibble]⟩

theorem jr (x : Nibble) : Statement (.jr x) :=
  ⟨rfl, by simp [encode, encodeNibble, row, family_of_nibble]⟩

theorem cp (x : Nibble) : Statement (.cp x) :=
  ⟨rfl, by simp [encode, encodeNibble, row, family_of_nibble]⟩

theorem and (x : Nibble) : Statement (.and x) :=
  ⟨rfl, by simp [encode, encodeNibble, row, family_of_nibble]⟩

theorem or (x : Nibble) : Statement (.or x) :=
  ⟨rfl, by simp [encode, encodeNibble, row, family_of_nibble]⟩

theorem xor (x : Nibble) : Statement (.xor x) :=
  ⟨rfl, by simp [encode, encodeNibble, row, family_of_nibble]⟩

theorem add (x : Nibble) : Statement (.add x) :=
  ⟨rfl, by simp [encode, encodeNibble, row, family_of_nibble]⟩

theorem sub (x : Nibble) : Statement (.sub x) :=
  ⟨rfl, by simp [encode, encodeNibble, row, family_of_nibble]⟩

theorem mul (x : Nibble) : Statement (.mul x) :=
  ⟨rfl, by simp [encode, encodeNibble, row, family_of_nibble]⟩

theorem div (x : Nibble) : Statement (.div x) :=
  ⟨rfl, by simp [encode, encodeNibble, row, family_of_nibble]⟩

theorem shl (x : Nibble) : Statement (.shl x) :=
  ⟨rfl, by simp [encode, encodeNibble, row, family_of_nibble]⟩

theorem shr (x : Nibble) : Statement (.shr x) :=
  ⟨rfl, by simp [encode, encodeNibble, row, family_of_nibble]⟩

theorem ssr (x : Nibble) : Statement (.ssr x) :=
  ⟨rfl, by simp [encode, encodeNibble, row, family_of_nibble]⟩

theorem ldn (x : Word) : Statement (.ldn x) :=
  ⟨rfl, by simp [encode, encodeWide, row]⟩

theorem stn (x : Word) : Statement (.stn x) :=
  ⟨rfl, by simp [encode, encodeWide, row]⟩

theorem j (x : Word) : Statement (.j x) :=
  ⟨rfl, by simp [encode, encodeWide, row]⟩

theorem jz (x : Word) : Statement (.jz x) :=
  ⟨rfl, by simp [encode, encodeWide, row]⟩

theorem jn (x : Word) : Statement (.jn x) :=
  ⟨rfl, by simp [encode, encodeWide, row]⟩

theorem jc (x : Word) : Statement (.jc x) :=
  ⟨rfl, by simp [encode, encodeWide, row]⟩

theorem jv (x : Word) : Statement (.jv x) :=
  ⟨rfl, by simp [encode, encodeWide, row]⟩

theorem com : Statement .com :=
  ⟨rfl, by simp [encode, row]⟩

theorem neg : Statement .neg :=
  ⟨rfl, by simp [encode, row]⟩

theorem inc : Statement .inc :=
  ⟨rfl, by simp [encode, row]⟩

theorem dec : Statement .dec :=
  ⟨rfl, by simp [encode, row]⟩

theorem clr : Statement .clr :=
  ⟨rfl, by simp [encode, row]⟩

theorem uno : Statement .uno :=
  ⟨rfl, by simp [encode, row]⟩

theorem nop : Statement .nop :=
  ⟨rfl, by simp [encode, row]⟩

theorem rst : Statement .rst :=
  ⟨rfl, by simp [encode, row]⟩

theorem hlt : Statement .hlt :=
  ⟨rfl, by simp [encode, row]⟩

end Sys2Proof.Laws.OpcodeRow
end

