-- ==== Sys2Proof/Laws/State.lean ====
section
/-! SUPPORT. One lemma per field of the state per update, true by rfl, so that no proof unfolds an update; and the
reading of a register after a write of one. -/

namespace Sys2Proof.Machine

variable (s : State)

@[simp] theorem State.setReg_regs (r : Nibble) (x : Register) : (s.setReg r x).regs = s.regs.set r.toNat x r.isLt := rfl
@[simp] theorem State.setReg_target (r : Nibble) (x : Register) : (s.setReg r x).target = s.target := rfl
@[simp] theorem State.setReg_pcCurrent (r : Nibble) (x : Register) : (s.setReg r x).pcCurrent = s.pcCurrent := rfl
@[simp] theorem State.setReg_pcNext (r : Nibble) (x : Register) : (s.setReg r x).pcNext = s.pcNext := rfl
@[simp] theorem State.setReg_ram (r : Nibble) (x : Register) : (s.setReg r x).ram = s.ram := rfl
@[simp] theorem State.setReg_dev (r : Nibble) (x : Register) : (s.setReg r x).dev = s.dev := rfl
@[simp] theorem State.setReg_running (r : Nibble) (x : Register) : (s.setReg r x).running = s.running := rfl
@[simp] theorem State.setReg_fatal (r : Nibble) (x : Register) : (s.setReg r x).fatal = s.fatal := rfl
@[simp] theorem State.setReg_platform (r : Nibble) (x : Register) : (s.setReg r x).platform = s.platform := rfl

@[simp] theorem State.setValue_regs (r : Nibble) (v : Int) : (s.setValue r v).regs = s.regs.set r.toNat (Reg.set v) r.isLt := rfl
@[simp] theorem State.setValue_target (r : Nibble) (v : Int) : (s.setValue r v).target = s.target := rfl
@[simp] theorem State.setValue_pcCurrent (r : Nibble) (v : Int) : (s.setValue r v).pcCurrent = s.pcCurrent := rfl
@[simp] theorem State.setValue_pcNext (r : Nibble) (v : Int) : (s.setValue r v).pcNext = s.pcNext := rfl
@[simp] theorem State.setValue_ram (r : Nibble) (v : Int) : (s.setValue r v).ram = s.ram := rfl
@[simp] theorem State.setValue_dev (r : Nibble) (v : Int) : (s.setValue r v).dev = s.dev := rfl
@[simp] theorem State.setValue_running (r : Nibble) (v : Int) : (s.setValue r v).running = s.running := rfl
@[simp] theorem State.setValue_fatal (r : Nibble) (v : Int) : (s.setValue r v).fatal = s.fatal := rfl
@[simp] theorem State.setValue_platform (r : Nibble) (v : Int) : (s.setValue r v).platform = s.platform := rfl

@[simp] theorem State.setTarget_regs (x : Register) : (s.setTarget x).regs = s.regs.set s.target.toNat x s.target.isLt := rfl
@[simp] theorem State.setTarget_target (x : Register) : (s.setTarget x).target = s.target := rfl
@[simp] theorem State.setTarget_pcCurrent (x : Register) : (s.setTarget x).pcCurrent = s.pcCurrent := rfl
@[simp] theorem State.setTarget_pcNext (x : Register) : (s.setTarget x).pcNext = s.pcNext := rfl
@[simp] theorem State.setTarget_ram (x : Register) : (s.setTarget x).ram = s.ram := rfl
@[simp] theorem State.setTarget_dev (x : Register) : (s.setTarget x).dev = s.dev := rfl
@[simp] theorem State.setTarget_running (x : Register) : (s.setTarget x).running = s.running := rfl
@[simp] theorem State.setTarget_fatal (x : Register) : (s.setTarget x).fatal = s.fatal := rfl
@[simp] theorem State.setTarget_platform (x : Register) : (s.setTarget x).platform = s.platform := rfl

@[simp] theorem State.select_regs (r : Nibble) : (s.select r).regs = s.regs := rfl
@[simp] theorem State.select_target (r : Nibble) : (s.select r).target = r := rfl
@[simp] theorem State.select_pcCurrent (r : Nibble) : (s.select r).pcCurrent = s.pcCurrent := rfl
@[simp] theorem State.select_pcNext (r : Nibble) : (s.select r).pcNext = s.pcNext := rfl
@[simp] theorem State.select_ram (r : Nibble) : (s.select r).ram = s.ram := rfl
@[simp] theorem State.select_dev (r : Nibble) : (s.select r).dev = s.dev := rfl
@[simp] theorem State.select_running (r : Nibble) : (s.select r).running = s.running := rfl
@[simp] theorem State.select_fatal (r : Nibble) : (s.select r).fatal = s.fatal := rfl
@[simp] theorem State.select_platform (r : Nibble) : (s.select r).platform = s.platform := rfl

@[simp] theorem State.jump_regs (a : Word) : (s.jump a).regs = s.regs := rfl
@[simp] theorem State.jump_target (a : Word) : (s.jump a).target = s.target := rfl
@[simp] theorem State.jump_pcCurrent (a : Word) : (s.jump a).pcCurrent = s.pcCurrent := rfl
@[simp] theorem State.jump_pcNext (a : Word) : (s.jump a).pcNext = a := rfl
@[simp] theorem State.jump_ram (a : Word) : (s.jump a).ram = s.ram := rfl
@[simp] theorem State.jump_dev (a : Word) : (s.jump a).dev = s.dev := rfl
@[simp] theorem State.jump_running (a : Word) : (s.jump a).running = s.running := rfl
@[simp] theorem State.jump_fatal (a : Word) : (s.jump a).fatal = s.fatal := rfl
@[simp] theorem State.jump_platform (a : Word) : (s.jump a).platform = s.platform := rfl

@[simp] theorem State.skipImmediate_regs : (s.skipImmediate).regs = s.regs := rfl
@[simp] theorem State.skipImmediate_target : (s.skipImmediate).target = s.target := rfl
@[simp] theorem State.skipImmediate_pcCurrent : (s.skipImmediate).pcCurrent = s.pcCurrent := rfl
@[simp] theorem State.skipImmediate_pcNext : (s.skipImmediate).pcNext = s.pcNext + 4 := rfl
@[simp] theorem State.skipImmediate_ram : (s.skipImmediate).ram = s.ram := rfl
@[simp] theorem State.skipImmediate_dev : (s.skipImmediate).dev = s.dev := rfl
@[simp] theorem State.skipImmediate_running : (s.skipImmediate).running = s.running := rfl
@[simp] theorem State.skipImmediate_fatal : (s.skipImmediate).fatal = s.fatal := rfl
@[simp] theorem State.skipImmediate_platform : (s.skipImmediate).platform = s.platform := rfl

@[simp] theorem State.halt_regs : (s.halt).regs = s.regs := rfl
@[simp] theorem State.halt_target : (s.halt).target = s.target := rfl
@[simp] theorem State.halt_pcCurrent : (s.halt).pcCurrent = s.pcCurrent := rfl
@[simp] theorem State.halt_pcNext : (s.halt).pcNext = s.pcNext := rfl
@[simp] theorem State.halt_ram : (s.halt).ram = s.ram := rfl
@[simp] theorem State.halt_dev : (s.halt).dev = s.dev := rfl
@[simp] theorem State.halt_running : (s.halt).running = false := rfl
@[simp] theorem State.halt_fatal : (s.halt).fatal = s.fatal := rfl
@[simp] theorem State.halt_platform : (s.halt).platform = s.platform := rfl

@[simp] theorem State.setRam_regs (m : Memory) : (s.setRam m).regs = s.regs := rfl
@[simp] theorem State.setRam_target (m : Memory) : (s.setRam m).target = s.target := rfl
@[simp] theorem State.setRam_pcCurrent (m : Memory) : (s.setRam m).pcCurrent = s.pcCurrent := rfl
@[simp] theorem State.setRam_pcNext (m : Memory) : (s.setRam m).pcNext = s.pcNext := rfl
@[simp] theorem State.setRam_ram (m : Memory) : (s.setRam m).ram = m := rfl
@[simp] theorem State.setRam_dev (m : Memory) : (s.setRam m).dev = s.dev := rfl
@[simp] theorem State.setRam_running (m : Memory) : (s.setRam m).running = s.running := rfl
@[simp] theorem State.setRam_fatal (m : Memory) : (s.setRam m).fatal = s.fatal := rfl
@[simp] theorem State.setRam_platform (m : Memory) : (s.setRam m).platform = s.platform := rfl

@[simp] theorem State.setDev_regs (k : Nat) (d : DevState) : (s.setDev k d).regs = s.regs := rfl
@[simp] theorem State.setDev_target (k : Nat) (d : DevState) : (s.setDev k d).target = s.target := rfl
@[simp] theorem State.setDev_pcCurrent (k : Nat) (d : DevState) : (s.setDev k d).pcCurrent = s.pcCurrent := rfl
@[simp] theorem State.setDev_pcNext (k : Nat) (d : DevState) : (s.setDev k d).pcNext = s.pcNext := rfl
@[simp] theorem State.setDev_ram (k : Nat) (d : DevState) : (s.setDev k d).ram = s.ram := rfl
@[simp] theorem State.setDev_dev (k : Nat) (d : DevState) : (s.setDev k d).dev = s.dev.set k d := rfl
@[simp] theorem State.setDev_running (k : Nat) (d : DevState) : (s.setDev k d).running = s.running := rfl
@[simp] theorem State.setDev_fatal (k : Nat) (d : DevState) : (s.setDev k d).fatal = s.fatal := rfl
@[simp] theorem State.setDev_platform (k : Nat) (d : DevState) : (s.setDev k d).platform = s.platform := rfl

@[simp] theorem State.raise_regs (e : FatalError) : (s.raise e).regs = s.regs := rfl
@[simp] theorem State.raise_target (e : FatalError) : (s.raise e).target = s.target := rfl
@[simp] theorem State.raise_pcCurrent (e : FatalError) : (s.raise e).pcCurrent = s.pcCurrent := rfl
@[simp] theorem State.raise_pcNext (e : FatalError) : (s.raise e).pcNext = s.pcNext := rfl
@[simp] theorem State.raise_ram (e : FatalError) : (s.raise e).ram = s.ram := rfl
@[simp] theorem State.raise_dev (e : FatalError) : (s.raise e).dev = s.dev := rfl
@[simp] theorem State.raise_running (e : FatalError) : (s.raise e).running = s.running := rfl
@[simp] theorem State.raise_fatal (e : FatalError) : (s.raise e).fatal = some e := rfl
@[simp] theorem State.raise_platform (e : FatalError) : (s.raise e).platform = s.platform := rfl

@[simp] theorem State.addressError_regs (a : Word) (n : Nat) (k : AccessKind) : (s.addressError a n k).regs = s.regs := rfl
@[simp] theorem State.addressError_target (a : Word) (n : Nat) (k : AccessKind) : (s.addressError a n k).target = s.target := rfl
@[simp] theorem State.addressError_pcCurrent (a : Word) (n : Nat) (k : AccessKind) : (s.addressError a n k).pcCurrent = s.pcCurrent := rfl
@[simp] theorem State.addressError_pcNext (a : Word) (n : Nat) (k : AccessKind) : (s.addressError a n k).pcNext = s.pcNext := rfl
@[simp] theorem State.addressError_ram (a : Word) (n : Nat) (k : AccessKind) : (s.addressError a n k).ram = s.ram := rfl
@[simp] theorem State.addressError_dev (a : Word) (n : Nat) (k : AccessKind) : (s.addressError a n k).dev = s.dev := rfl
@[simp] theorem State.addressError_running (a : Word) (n : Nat) (k : AccessKind) : (s.addressError a n k).running = s.running := rfl
@[simp] theorem State.addressError_fatal (a : Word) (n : Nat) (k : AccessKind) : (s.addressError a n k).fatal = some (.addressError a n k) := rfl
@[simp] theorem State.addressError_platform (a : Word) (n : Nat) (k : AccessKind) : (s.addressError a n k).platform = s.platform := rfl

@[simp] theorem State.broadcast_regs : (s.broadcast).regs = s.regs := rfl
@[simp] theorem State.broadcast_target : (s.broadcast).target = s.target := rfl
@[simp] theorem State.broadcast_pcCurrent : (s.broadcast).pcCurrent = s.pcNext := rfl
@[simp] theorem State.broadcast_pcNext : (s.broadcast).pcNext = s.pcNext + 1 := rfl
@[simp] theorem State.broadcast_ram : (s.broadcast).ram = s.ram := rfl
@[simp] theorem State.broadcast_dev : (s.broadcast).dev = List.zipWith Device.tick s.platform.devices s.dev := rfl
@[simp] theorem State.broadcast_running : (s.broadcast).running = s.running := rfl
@[simp] theorem State.broadcast_fatal : (s.broadcast).fatal = s.fatal := rfl
@[simp] theorem State.broadcast_platform : (s.broadcast).platform = s.platform := rfl

@[simp] theorem State.resetCore_regs : (s.resetCore).regs = Vector.replicate 16 Register.cleared := rfl
@[simp] theorem State.resetCore_target : (s.resetCore).target = 0 := rfl
@[simp] theorem State.resetCore_pcCurrent : (s.resetCore).pcCurrent = 0 := rfl
@[simp] theorem State.resetCore_pcNext : (s.resetCore).pcNext = 0 := rfl
@[simp] theorem State.resetCore_ram : (s.resetCore).ram = s.ram := rfl
@[simp] theorem State.resetCore_dev : (s.resetCore).dev = List.zipWith Device.reset s.platform.devices s.dev := rfl
@[simp] theorem State.resetCore_running : (s.resetCore).running = false := rfl
@[simp] theorem State.resetCore_fatal : (s.resetCore).fatal = s.fatal := rfl
@[simp] theorem State.resetCore_platform : (s.resetCore).platform = s.platform := rfl

/-- Reading register `p` after writing register `r`. -/
theorem State.reg_setReg (r p : Nibble) (x : Register) : (s.setReg r x).reg p = if p = r then x else s.reg p := by
  unfold State.reg State.setReg
  by_cases h : p = r
  · subst h
    simp
  · have hne : r.toNat ≠ p.toNat := fun e => h (BitVec.eq_of_toNat_eq e.symm)
    simp [h, hne]

@[simp] theorem State.reg_setReg_self (r : Nibble) (x : Register) : (s.setReg r x).reg r = x := by
  simp [State.reg_setReg]

theorem State.reg_setReg_ne (r p : Nibble) (x : Register) (h : p ≠ r) : (s.setReg r x).reg p = s.reg p := by
  simp [State.reg_setReg, h]

/-- A register depends on the register file alone. -/
theorem State.reg_congr (t : State) (h : t.regs = s.regs) (p : Nibble) : t.reg p = s.reg p := by
  unfold State.reg
  simp only [h]

/-- Every register of a cleared file is cleared (R45). -/
theorem State.reg_cleared (h : s.regs = Vector.replicate 16 Register.cleared) (p : Nibble) :
    s.reg p = Register.cleared := by
  unfold State.reg
  simp only [h, Vector.getElem_replicate]

@[simp] theorem State.select_reg (r : Nibble) (p : Nibble) : (s.select r).reg p = s.reg p := rfl
@[simp] theorem State.jump_reg (a : Word) (p : Nibble) : (s.jump a).reg p = s.reg p := rfl
@[simp] theorem State.skipImmediate_reg (p : Nibble) : (s.skipImmediate).reg p = s.reg p := rfl
@[simp] theorem State.halt_reg (p : Nibble) : (s.halt).reg p = s.reg p := rfl
@[simp] theorem State.setRam_reg (m : Memory) (p : Nibble) : (s.setRam m).reg p = s.reg p := rfl
@[simp] theorem State.setDev_reg (k : Nat) (d : DevState) (p : Nibble) : (s.setDev k d).reg p = s.reg p := rfl
@[simp] theorem State.raise_reg (e : FatalError) (p : Nibble) : (s.raise e).reg p = s.reg p := rfl
@[simp] theorem State.addressError_reg (a : Word) (n : Nat) (k : AccessKind) (p : Nibble) : (s.addressError a n k).reg p = s.reg p := rfl
@[simp] theorem State.broadcast_reg (p : Nibble) : (s.broadcast).reg p = s.reg p := rfl

theorem State.setTarget_eq_setReg (x : Register) : s.setTarget x = s.setReg s.target x := rfl

theorem State.setValue_eq_setReg (r : Nibble) (v : Int) : s.setValue r v = s.setReg r (Reg.set v) := rfl

end Sys2Proof.Machine
end

