-- ==== Sys2Proof/Laws/Router.lean ====
section
/-! SUPPORT. Once for each routed access, everything it can do (spec/20_memory.md R65, R66). -/

namespace Sys2Proof.Machine

/-- A window's local offset is 0 to 3 (R40, R42). -/
theorem windowOffset_lt {window : Option Word} {a o : Nat} (h : windowOffset window a = some o) : o < 4 := by
  unfold windowOffset at h
  split at h
  · cases h
  · split at h
    · cases h; omega
    · cases h

/-- An access that is routed to the PC window has a local offset of 0 to 3 (R40). -/
theorem State.route_pcWindow_lt {s : State} {a : Word} {o : Nat} (h : s.route a = .pcWindow o) : o < 4 := by
  unfold State.route Platform.route at h
  split at h
  · next hw => cases h; exact windowOffset_lt hw
  · split at h
    · cases h
    · split at h <;> cases h

/-- An access that is routed to the CPU window has a local offset of 0 to 3 (R42). -/
theorem State.route_cpuWindow_lt {s : State} {a : Word} {o : Nat} (h : s.route a = .cpuWindow o) : o < 4 := by
  unfold State.route Platform.route at h
  split at h
  · cases h
  · split at h
    · next hw => cases h; exact windowOffset_lt hw
    · split at h <;> cases h

/-- A read served by a device changes that device's state and nothing else; a refused one only records the error. -/
theorem State.deviceRead_cases {α : Type} (s : State) (a : Word) (n k : Nat)
    (h : Device → DevState → Option (α × DevState)) :
    (∃ d st v st', s.device? k = some (d, st) ∧ h d st = some (v, st') ∧
      s.deviceRead a n k h = .ok (v, s.setDev k st')) ∨
    s.deviceRead a n k h = .error (s.addressError a n .deviceFault) := by
  unfold State.deviceRead
  split
  · exact .inr rfl
  · next d st hd =>
    split
    · exact .inr rfl
    · next v st' hv => exact .inl ⟨d, st, v, st', hd, hv, rfl⟩

/-- A write served by a device, likewise. -/
theorem State.deviceWrite_cases (s : State) (a : Word) (n k : Nat) (h : Device → DevState → Option DevState) :
    (∃ d st st', s.device? k = some (d, st) ∧ h d st = some st' ∧ s.deviceWrite a n k h = .ok (s.setDev k st')) ∨
    s.deviceWrite a n k h = .error (s.addressError a n .deviceFault) := by
  unfold State.deviceWrite
  split
  · exact .inr rfl
  · next d st hd =>
    split
    · exact .inr rfl
    · next st' hv => exact .inl ⟨d, st, st', hd, hv, rfl⟩

/-- A successful byte read leaves the state alone, or changes the one device that served it. -/
theorem memReadByte_ok {kind : AccessKind} {a : Word} {s t : State} {b : Byte}
    (h : memReadByte kind a s = .ok (b, t)) : t = s ∨ ∃ k st, t = s.setDev k st := by
  unfold memReadByte at h
  split at h
  · cases h; exact .inl rfl
  · cases h; exact .inl rfl
  · next k o _ =>
    rcases State.deviceRead_cases s a 1 k (fun d st => d.readByte st o) with ⟨_, _, _, st', _, _, e⟩ | e
    · rw [e] at h; cases h; exact .inr ⟨k, st', rfl⟩
    · rw [e] at h; cases h
  · split at h
    · cases h; exact .inl rfl
    · cases h

/-- A byte read that raises records an AddressError of width 1 at its address and does nothing else. -/
theorem memReadByte_error {kind : AccessKind} {a : Word} {s t : State}
    (h : memReadByte kind a s = .error t) : ∃ kind', t = s.addressError a 1 kind' := by
  unfold memReadByte at h
  split at h
  · cases h
  · cases h
  · next k o _ =>
    rcases State.deviceRead_cases s a 1 k (fun d st => d.readByte st o) with ⟨_, _, _, st', _, _, e⟩ | e
    · rw [e] at h; cases h
    · rw [e] at h; cases h; exact ⟨_, rfl⟩
  · split at h
    · cases h
    · cases h; exact ⟨_, rfl⟩

/-- A successful word read leaves the state alone, or changes the one device that served it. -/
theorem memReadWord_ok {kind : AccessKind} {a : Word} {s t : State} {v : Word}
    (h : memReadWord kind a s = .ok (v, t)) : t = s ∨ ∃ k st, t = s.setDev k st := by
  unfold memReadWord at h
  split at h
  · split at h <;> cases h
    exact .inl rfl
  · split at h <;> cases h
    exact .inl rfl
  · next k o _ =>
    rcases State.deviceRead_cases s a 4 k (fun d st => d.readInteger st o) with ⟨_, _, _, st', _, _, e⟩ | e
    · rw [e] at h; cases h; exact .inr ⟨k, st', rfl⟩
    · rw [e] at h; cases h
  · split at h <;> cases h
    exact .inl rfl

/-- A word read that raises records an AddressError of width 4 at its address and does nothing else. -/
theorem memReadWord_error {kind : AccessKind} {a : Word} {s t : State}
    (h : memReadWord kind a s = .error t) : ∃ kind', t = s.addressError a 4 kind' := by
  unfold memReadWord at h
  split at h
  · split at h <;> cases h
    exact ⟨_, rfl⟩
  · split at h <;> cases h
    exact ⟨_, rfl⟩
  · next k o _ =>
    rcases State.deviceRead_cases s a 4 k (fun d st => d.readInteger st o) with ⟨_, _, _, st', _, _, e⟩ | e
    · rw [e] at h; cases h
    · rw [e] at h; cases h; exact ⟨_, rfl⟩
  · split at h <;> cases h
    exact ⟨_, rfl⟩

/-- A successful word write is a jump (PC window), a `set` of the target register (CPU window), a change of one
device, or a store into RAM inside its size. -/
theorem memWriteWord_ok {a v : Word} {s t : State} (h : memWriteWord a v s = .ok t) :
    t = s.jump v ∨ t = s.setValue s.target v.toInt ∨ (∃ k st, t = s.setDev k st) ∨
    (s.route a = .ram ∧ a.toNat + 3 < s.platform.ramSize ∧ t = s.setRam (Memory.writeWord s.ram a.toNat v)) := by
  unfold memWriteWord at h
  split at h
  · split at h <;> cases h
    exact .inl rfl
  · split at h <;> cases h
    exact .inr (.inl rfl)
  · next k o _ =>
    rcases State.deviceWrite_cases s a 4 k (fun d st => d.writeInteger st o v) with ⟨_, _, st', _, _, e⟩ | e
    · rw [e] at h; cases h; exact .inr (.inr (.inl ⟨k, st', rfl⟩))
    · rw [e] at h; cases h
  · next hr =>
    split at h
    · next hlt => cases h; exact .inr (.inr (.inr ⟨hr, hlt, rfl⟩))
    · cases h

/-- A word write that raises records an AddressError of width 4 at its address and does nothing else. -/
theorem memWriteWord_error {a v : Word} {s t : State} (h : memWriteWord a v s = .error t) :
    ∃ kind', t = s.addressError a 4 kind' := by
  unfold memWriteWord at h
  split at h
  · split at h <;> cases h
    exact ⟨_, rfl⟩
  · split at h <;> cases h
    exact ⟨_, rfl⟩
  · next k o _ =>
    rcases State.deviceWrite_cases s a 4 k (fun d st => d.writeInteger st o v) with ⟨_, _, st', _, _, e⟩ | e
    · rw [e] at h; cases h
    · rw [e] at h; cases h; exact ⟨_, rfl⟩
  · split at h <;> cases h
    exact ⟨_, rfl⟩

/-- A successful byte write, likewise: a jump, a `set` of the target register, one device, or one RAM byte. -/
theorem memWriteByte_ok {a : Word} {b : Byte} {s t : State} (h : memWriteByte a b s = .ok t) :
    (∃ v, t = s.jump v) ∨ (∃ v, t = s.setValue s.target v) ∨ (∃ k st, t = s.setDev k st) ∨
    (s.route a = .ram ∧ a.toNat < s.platform.ramSize ∧ t = s.setRam (Memory.write s.ram a.toNat b)) := by
  unfold memWriteByte at h
  split at h
  · cases h; exact .inl ⟨_, rfl⟩
  · cases h; exact .inr (.inl ⟨_, rfl⟩)
  · next k o _ =>
    rcases State.deviceWrite_cases s a 1 k (fun d st => d.writeByte st o b) with ⟨_, _, st', _, _, e⟩ | e
    · rw [e] at h; cases h; exact .inr (.inr (.inl ⟨k, st', rfl⟩))
    · rw [e] at h; cases h
  · next hr =>
    split at h
    · next hlt => cases h; exact .inr (.inr (.inr ⟨hr, hlt, rfl⟩))
    · cases h

/-- A load answers the state of its read with `$TARGET` set, or records the error of its read. -/
theorem loadTarget_cases (a : Word) (s : State) :
    (∃ v t, memReadWord .read a s = .ok (v, t) ∧ loadTarget a s = .next (t.setValue t.target v.toInt)) ∨
    (∃ kind, loadTarget a s = .next (s.addressError a 4 kind)) := by
  unfold loadTarget
  cases h : memReadWord .read a s with
  | error t =>
    obtain ⟨kind, rfl⟩ := memReadWord_error h
    exact .inr ⟨kind, rfl⟩
  | ok p => exact .inl ⟨p.1, p.2, rfl, rfl⟩

/-- A store answers the state of its write, or records the error of its write. -/
theorem storeTarget_cases (a : Word) (s : State) :
    (∃ t, memWriteWord a s.targetView s = .ok t ∧ storeTarget a s = .next t) ∨
    (∃ kind, storeTarget a s = .next (s.addressError a 4 kind)) := by
  unfold storeTarget
  cases h : memWriteWord a s.targetView s with
  | error t =>
    obtain ⟨kind, rfl⟩ := memWriteWord_error h
    exact .inr ⟨kind, rfl⟩
  | ok t => exact .inl ⟨t, rfl, rfl⟩

end Sys2Proof.Machine
end

