-- ==== Sys2Proof/Laws/Step.lean ====
section
/-! SUPPORT. Once for interrupt entry, fetch and step, everything each can do. -/

namespace Sys2Proof.Machine

/-- A chosen source is pending (R270). -/
theorem State.arbitrate_some {s : State} {k : Nat} (h : s.arbitrate = some k) : s.sourcePending k = true :=
  List.find?_some h

/-- A pending source has a device record, a state and a vector (R267, R70). -/
theorem State.sourcePending_cases {s : State} {k : Nat} (h : s.sourcePending k = true) :
    ∃ d st vec inner, s.device? k = some (d, st) ∧ st.pending = true ∧ d.vector st = some (vec, inner) := by
  unfold State.sourcePending at h
  split at h
  · next d st hd =>
    simp only [Bool.and_eq_true] at h
    have hv : ∃ vec inner, d.vector st = some (vec, inner) := by
      unfold Device.interrupts at h
      unfold Device.vector
      split at h
      · next vector countdown hk =>
        obtain ⟨v, hv⟩ := Option.isSome_iff_exists.mp h.1
        exact ⟨v, st.inner, by simp [hv]⟩
      · next id intr hk =>
        refine ⟨(Config.externalVector id st).1, (Config.externalVector id st).2, ?_⟩
        simp [h.1]
    obtain ⟨vec, inner, hv⟩ := hv
    exact ⟨d, st, vec, inner, hd, h.2, hv⟩
  · cases h

/-- Interrupt entry for a pending source, in one equation (R272). -/
theorem State.interruptEntry_eq {s : State} {k : Nat} {d : Device} {st : DevState} {vec : Word} {inner : Nat}
    (hd : s.device? k = some (d, st)) (hv : d.vector st = some (vec, inner)) :
    s.interruptEntry k = ((s.setValue returnIndex s.pcNext.toInt).setDev k ⟨false, inner⟩).jump vec := by
  simp only [State.interruptEntry, hd, Device.readVector, hv, Option.map]

/-- Fetch answers an instruction, in the state of its accesses, past a wide immediate; or it records an AddressError
in that state. -/
theorem fetch_cases (s : State) :
    (∃ b s1 i, memReadByte .fetch s.pcCurrent s = .ok (b, s1) ∧ isWideOpcode b = false ∧ fetch s = .ok (i, s1)) ∨
    (∃ b s1 d s2 i, memReadByte .fetch s.pcCurrent s = .ok (b, s1) ∧ isWideOpcode b = true ∧
      memReadWord .immediate (s1.pcCurrent + 1) s1 = .ok (d, s2) ∧ fetch s = .ok (i, s2.skipImmediate)) ∨
    (∃ kind, fetch s = .error (s.addressError s.pcCurrent 1 kind)) ∨
    (∃ b s1 kind, memReadByte .fetch s.pcCurrent s = .ok (b, s1) ∧
      fetch s = .error (s1.addressError (s1.pcCurrent + 1) 4 kind)) := by
  unfold fetch
  cases hb : memReadByte .fetch s.pcCurrent s with
  | error t =>
    obtain ⟨kind, rfl⟩ := memReadByte_error hb
    exact .inr (.inr (.inl ⟨kind, rfl⟩))
  | ok p =>
    obtain ⟨b, s1⟩ := p
    have total : ∀ b : Byte, (∃ mk, lookupOpcode b = some (.nibble mk) ∧ isWideOpcode b = false) ∨
        (∃ i, lookupOpcode b = some (.zero i) ∧ isWideOpcode b = false) ∨
        (∃ mk, lookupOpcode b = some (.wide mk) ∧ isWideOpcode b = true) := by
      intro b
      have key : ∀ b : Byte, (match lookupOpcode b with
          | none => false
          | some (.nibble _) => !isWideOpcode b
          | some (.zero _) => !isWideOpcode b
          | some (.wide _) => isWideOpcode b) = true := by decide +kernel
      have := key b
      split at this
      · cases this
      · next mk h => exact .inl ⟨mk, h, by simpa using this⟩
      · next i h => exact .inr (.inl ⟨i, h, by simpa using this⟩)
      · next mk h => exact .inr (.inr ⟨mk, h, this⟩)
    rcases total b with ⟨mk, h, hw⟩ | ⟨i, h, hw⟩ | ⟨mk, h, hw⟩
    · exact .inl ⟨b, s1, mk (operandNibble b), rfl, hw, by simp only [h]⟩
    · exact .inl ⟨b, s1, i, rfl, hw, by simp only [h]⟩
    · simp only [h]
      cases hd : memReadWord .immediate (s1.pcCurrent + 1) s1 with
      | error t =>
        obtain ⟨kind, rfl⟩ := memReadWord_error hd
        exact .inr (.inr (.inr ⟨b, s1, kind, rfl, rfl⟩))
      | ok q => exact .inr (.inl ⟨b, s1, q.1, q.2, mk q.1, rfl, hw, hd, rfl⟩)

/-- A step that answers a next state is an interrupt entry, an instruction, or a fetch that raised (R130). -/
theorem step_cases {s t : State} (h : step s = .next t) :
    s.running = true ∧ s.fatal = none ∧
    ((∃ k, s.broadcast.arbitrate = some k ∧ t = s.broadcast.interruptEntry k) ∨
     (∃ i s', s.broadcast.arbitrate = none ∧ fetch s.broadcast = .ok (i, s') ∧ exec i s' = .next t) ∨
     (s.broadcast.arbitrate = none ∧ fetch s.broadcast = .error t)) := by
  unfold step at h
  split at h
  · cases h
  · next hf =>
    split at h
    · next hr =>
      refine ⟨hr, hf, ?_⟩
      unfold afterBroadcast at h
      cases ha : s.broadcast.arbitrate with
      | some k =>
        simp only [ha] at h
        cases h
        exact .inl ⟨k, rfl, rfl⟩
      | none =>
        simp only [ha] at h
        cases hfe : fetch s.broadcast with
        | error t' =>
          simp only [hfe] at h
          cases h
          exact .inr (.inr ⟨rfl, rfl⟩)
        | ok p =>
          simp only [hfe] at h
          exact .inr (.inl ⟨p.1, p.2, rfl, rfl, h⟩)
    · cases h

end Sys2Proof.Machine
end

