-- ==== Sys2Proof/Tests/Slice0.lean ====
section
/-! SUPPORT. Tests. Every expected value is copied from spec/95_test_vectors.md (E, Part and P numbers given) or from
the rule named; none is the model's own answer. -/

namespace Sys2Proof.Tests

-- One theorem at a time: their kernel checks would otherwise queue up, each on a thread with a stack of its own.
set_option Elab.async false

open Sys2Proof.Machine

/-- The state of a step that answers one. -/
def next? : Host.Outcome State Fault Refusal → Option State
  | .next s => some s
  | .fault _ => none
  | .refused _ => none

/-- The fault of a step that faults. -/
def fault? : Host.Outcome State Fault Refusal → Option Fault
  | .fault f => some f
  | .next _ => none
  | .refused _ => none

/-- The reset state with the clock started, registers 0 and 2 given, and bytes placed at `a`, the next fetch. -/
def boot (x0 x2 : Register) (a : Nat) (bytes : List Byte) : State :=
  { (State.reset.setReg 0 x0).setReg 2 x2 with
    running := true
    pcNext := BitVec.ofNat 32 a
    ram := Memory.load [] a bytes }

/-- A register with both flags set, as Part 2.4 starts from. -/
def flagged (v : Int) : Register := ⟨BitVec.ofInt 32 v, true, true⟩

/-- A register with both flags clear. -/
def plain (v : Int) : Register := ⟨BitVec.ofInt 32 v, false, false⟩

/-- `$TARGET` after one step of the bytes, with `x[0]` (the target, flags set) and `x[2]` as given. -/
def target (x0 x2 : Int) (bytes : List Byte) : Option Register :=
  (next? (step (boot (flagged x0) (plain x2) 0 bytes))).map State.targetReg

/-! ### Decoding: words written out from the encoding (R101 to R103, R108; Part 2.1) -/

/-- The instruction a byte sequence decodes to. -/
def decoded (bytes : List Byte) : Option Instr :=
  match decode bytes with
  | .ok (i, _) => some i
  | .error _ => none

theorem test_decode_nibble_families_low :
    [[0x03], [0x1F], [0x21], [0x3F], [0x43], [0x52], [0x60], [0x7A]].map decoded =
      [some (.sel 3), some (.ldr 15), some (.str 1), some (.jr 15), some (.cp 3), some (.and 2), some (.or 0),
        some (.xor 10)] := by decide +kernel

theorem test_decode_nibble_families_high :
    [[0x8F], [0x92], [0xA5], [0xB1], [0xCF], [0xD4], [0xE2]].map decoded =
      [some (.add 15), some (.sub 2), some (.mul 5), some (.div 1), some (.shl 15), some (.shr 4),
        some (.ssr 2)] := by decide +kernel

theorem test_decode_wide :
    [[0xF0, 0, 0, 0, 5], [0xF1, 0, 0, 1, 0], [0xF2, 0xFF, 0xFF, 0xFF, 0xFE], [0xF3, 0, 0, 0, 0x30],
        [0xF4, 0, 0, 0, 0x30], [0xF5, 0x12, 0x34, 0x56, 0x78], [0xF6, 0x80, 0, 0, 1]].map decoded =
      [some (.ldn 5), some (.stn 0x100), some (.j 0xFFFFFFFE), some (.jz 0x30), some (.jn 0x30),
        some (.jc 0x12345678), some (.jv 0x80000001)] := by decide +kernel

theorem test_decode_zero_operand :
    [[0xF7], [0xF8], [0xF9], [0xFA], [0xFB], [0xFC], [0xFD], [0xFE], [0xFF]].map decoded =
      [some .com, some .neg, some .inc, some .dec, some .clr, some .uno, some .nop, some .rst, some .hlt] := by
  decide +kernel

theorem test_decode_truncated_immediate :
    (match decode [0xF0, 0, 0, 0] with
      | .error e => some e
      | .ok _ => none) = some (.truncatedImmediate 0xF0) := by decide +kernel

theorem test_decode_nothing :
    (match decode [] with
      | .error e => some e
      | .ok _ => none) = some .noOpcodeByte := by decide +kernel

/-- Both numberings of a 40-bit row (log 10). -/
theorem test_table_word_both_numberings :
    [decodeTableWord 8 0x83, decodeTableWord 40 0x05000000F0, decodeTableWord 40 0xF000000005,
        decodeTableWord 40 0xF2, decodeTableWord 40 0xF200000000, decodeTableWord 8 0xFF] =
      [some (.add 3), some (.ldn 5), some (.ldn 5), some (.j 0), some (.j 0), some .hlt] := by decide +kernel

/-- An instruction loaded by withFetchWord is the first that runs after reset (LDN 5, E7). -/
theorem test_withFetchWord_runs :
    (next? (step (State.reset.withFetchWord 40 0x05000000F0))).map (fun s => (s.view 0, s.pcCurrent, s.pcNext)) =
      some (5, 0, 5) := by decide +kernel

/-! ### Well-formedness: one ill-formed term for each check of R303 -/

def okDevice (start : Word) (length : Nat) : Device :=
  ⟨"TDEV", start, length, .testDevice none 0, ⟨false, 0⟩⟩

def withDevices (ds : List Device) : Platform := { Platform.reference with devices := ds }

/-- The error bring-up answers. -/
def refusal (p : Platform) : Option ConfigurationError :=
  match bringUp p with
  | .error e => some e
  | .ok _ => none

theorem test_wf_reference : Platform.reference.wellFormed = true := by decide +kernel

theorem test_wf_adjacent_ranges_accepted :
    refusal (withDevices [okDevice 0xFFFFFF00 4, okDevice 0xFFFFFF04 4]) = none := by decide +kernel

theorem test_wf_device_over_ram_accepted : refusal (withDevices [okDevice 0x100 4]) = none := by decide +kernel

theorem test_wf_overlaps_refused :
    [refusal (withDevices [okDevice 0xFFFFFF00 4, okDevice 0xFFFFFF03 4]),
        refusal (withDevices [okDevice 0xFFFFFF00 8, okDevice 0xFFFFFF02 2]),
        refusal (withDevices [okDevice 0xFFFFFF00 4, okDevice 0xFFFFFF00 4]),
        refusal { withDevices [okDevice 0xFFFFFF00 4] with pcWindow := some 0xFFFFFF02 }] =
      [some .overlappingRanges, some .overlappingRanges, some .overlappingRanges, some .overlappingRanges] := by
  decide +kernel

theorem test_wf_wrapping_and_empty_ranges_refused :
    [refusal (withDevices [okDevice 0xFFFFFFFE 4]), refusal (withDevices [okDevice 0x100 0])] =
      [some .illegalRange, some .illegalRange] := by decide +kernel

theorem test_wf_no_ram_refused : refusal { Platform.reference with ramSize := 0 } = some .missingRam := by
  decide +kernel

theorem test_wf_too_much_ram_refused : refusal { Platform.reference with ramSize := 2 ^ 32 + 1 } = some .ramTooLarge := by
  decide +kernel

theorem test_wf_image_too_long_refused :
    refusal { Platform.reference with ramSize := 2, image := [1, 2, 3] } = some .imageTooLong := by decide +kernel

theorem test_wf_every_instruction : (Instr.ldn 0xFFFFFFFF).wellFormed = true := rfl

/-- `State.reset` is what bring-up of the reference platform answers (R45). -/
theorem test_bringUp_reference : bringUp Platform.reference = .ok State.reset := rfl

/-! ### Instructions (Parts 2.2 to 2.8) -/

theorem test_sel_3 : (next? (step (boot (flagged 7) (plain 0) 0 [0x03]))).map
    (fun s => (s.target, s.reg 0)) = some (3, flagged 7) := by decide +kernel

theorem test_cp_5 : (next? (step (boot ⟨BitVec.ofInt 32 (-7), true, false⟩ (plain 0) 0 [0x45]))).map
    (fun s => (s.reg 5, s.reg 0)) = some (plain (-7), ⟨BitVec.ofInt 32 (-7), true, false⟩) := by decide +kernel

theorem test_cp_target : target (-7) 0 [0x40] = some (plain (-7)) := by decide +kernel

theorem test_ldn_minus_one : target 99 0 [0xF0, 0xFF, 0xFF, 0xFF, 0xFF] = some (plain (-1)) := by decide +kernel

/-- STN 0x101 of -2: `ram[0x100..0x105] = 00 FF FF FF FE 00`. -/
theorem test_stn_misaligned :
    (next? (step (boot (flagged (-2)) (plain 0) 0 [0xF1, 0, 0, 1, 1]))).map
      (fun s => ([0, 1, 2, 3, 4, 5].map fun j => Memory.read s.ram (0x100 + j), s.reg 0, s.pcNext)) =
      some ([0, 0xFF, 0xFF, 0xFF, 0xFE, 0], flagged (-2), 5) := by decide +kernel

/-- STR 0 of 0x300: the address stored at itself. -/
theorem test_str_self :
    (next? (step (boot (flagged 0x300) (plain 0) 0 [0x20]))).map
      (fun s => Memory.readWord s.ram 0x300) = some 0x300 := by decide +kernel

/-- LDR 2 with `x[2] = 1`: the word at address 1. -/
theorem test_ldr : target 99 1 [0x12, 0x12, 0x34, 0x56, 0x78] = some (plain 0x12345678) := by decide +kernel

/-- LDR 0, address read before destination written. -/
theorem test_ldr_self : target 1 0 [0x10, 0xFF, 0xFF, 0xFF, 0xFE] = some (plain (-2)) := by decide +kernel

/-- LDR outside RAM: the error is recorded, `$TARGET` unchanged, phase 1 stays (Part 2.9). -/
theorem test_ldr_outside :
    (next? (step (boot (plain 7) (plain 0xFFFD) 0 [0x12]))).map
      (fun s => (s.fatal, s.reg 0, s.pcCurrent, s.pcNext)) =
      some (some (.addressError 0xFFFD 4 .read), plain 7, 0, 1) := by decide +kernel

/-- LDR of the last word of RAM succeeds (Part 2.9). -/
theorem test_ldr_last_word : target 7 0xFFFC [0x12] = some (plain 0) := by decide +kernel

/-- A store that runs past RAM writes no byte (Part 2.9). -/
theorem test_str_outside :
    (next? (step (boot (plain (-1)) (plain 0xFFFE) 0 [0x22]))).map
      (fun s => (s.fatal, Memory.read s.ram 0xFFFE, Memory.read s.ram 0xFFFF)) =
      some (some (.addressError 0xFFFE 4 .write), 0, 0) := by decide +kernel

theorem test_and_or_xor :
    [target 0x0F0F 0x00FF [0x52], target 0x0F00 0x00F0 [0x62], target (-1) 0x7FFFFFFF [0x72]] =
      [some (plain 0x000F), some (plain 0x0FF0), some (plain (-0x80000000))] := by decide +kernel

theorem test_add_corners :
    [target 0x7FFFFFFF 1 [0x82], target (-0x80000000) (-1) [0x82], target (-1) 1 [0x82], target 0x40000000 0 [0x80]] =
      [some ⟨0x80000000, true, false⟩, some ⟨0x7FFFFFFF, true, false⟩, some (plain 0),
        some ⟨0x80000000, true, false⟩] := by decide +kernel

theorem test_sub_corners :
    [target 5 7 [0x92], target 0 (-0x80000000) [0x92], target (-1) 0x7FFFFFFF [0x92],
        target (-2) 0x7FFFFFFF [0x92]] =
      [some (plain (-2)), some ⟨0x80000000, true, false⟩, some (plain (-0x80000000)),
        some ⟨0x7FFFFFFF, true, false⟩] := by decide +kernel

theorem test_mul_corners :
    [target 65536 65536 [0xA2], target (-0x80000000) (-1) [0xA2], target 46341 46341 [0xA2],
        target 46340 46340 [0xA2]] =
      [some ⟨0, false, true⟩, some ⟨0x80000000, false, true⟩, some ⟨0x80001219, false, true⟩,
        some (plain 2147395600)] := by decide +kernel

theorem test_div_signs :
    [target 7 2 [0xB2], target (-7) 2 [0xB2], target 7 (-2) [0xB2], target (-7) (-2) [0xB2]] =
      [some (plain 3), some (plain (-3)), some (plain (-3)), some (plain 3)] := by decide +kernel

theorem test_div_corners :
    [target 123 0 [0xB2], target (-0x80000000) (-1) [0xB2], target 0 0 [0xB0]] =
      [some ⟨123, true, true⟩, some ⟨0x80000000, false, true⟩, some ⟨0, true, true⟩] := by decide +kernel

theorem test_shl : [target (-5) 0 [0xC0], target 0x80000001 0 [0xC1], target 0x00010001 0 [0xCF]] =
    [some (plain (-5)), some (plain 2), some (plain (-2147450880))] := by decide +kernel

theorem test_shr : [target (-1) 0 [0xD1], target (-0x80000000) 0 [0xDF], target (-5) 0 [0xD0]] =
    [some (plain 0x7FFFFFFF), some (plain 65536), some (plain (-5))] := by decide +kernel

theorem test_ssr : [target (-7) 0 [0xE1], target (-0x80000000) 0 [0xEF], target 0x7FFFFFFF 0 [0xEF]] =
    [some (plain (-4)), some (plain (-65536)), some (plain 65535)] := by decide +kernel

theorem test_com_neg : [target 0xFF 0 [0xF7], target 5 0 [0xF8], target (-0x80000000) 0 [0xF8]] =
    [some (plain (-256)), some (plain (-5)), some (plain (-0x80000000))] := by decide +kernel

theorem test_inc_dec :
    [target 41 0 [0xF9], target 0x7FFFFFFF 0 [0xF9], target 0 0 [0xFA], target (-0x80000000) 0 [0xFA]] =
      [some (plain 42), some ⟨0x80000000, true, false⟩, some (plain (-1)), some ⟨0x7FFFFFFF, true, false⟩] := by
  decide +kernel

theorem test_clr_uno : [target 123 0 [0xFB], target (-9) 0 [0xFC]] = [some (plain 0), some (plain 1)] := by
  decide +kernel

/-- The next fetch address after one step at 0x10, with the given target register. -/
def nextAfter (x0 : Register) (bytes : List Byte) : Option Word :=
  (next? (step (boot x0 (plain (-256)) 0x10 bytes))).map State.pcNext

theorem test_jr : [nextAfter (plain 0) [0x32], nextAfter (flagged 0x1234) [0x30]] = [some 0xFFFFFF00, some 0x1234] := by
  decide +kernel

theorem test_j : nextAfter (plain 0) [0xF2, 0, 0, 0, 0x30] = some 0x30 := by decide +kernel

theorem test_jz_jn :
    [nextAfter (plain 0) [0xF3, 0, 0, 0, 0x30], nextAfter (plain 1) [0xF3, 0, 0, 0, 0x30],
        nextAfter (plain (-0x80000000)) [0xF4, 0, 0, 0, 0x30], nextAfter (plain 0) [0xF4, 0, 0, 0, 0x30]] =
      [some 0x30, some 0x15, some 0x30, some 0x15] := by decide +kernel

theorem test_jc_jv :
    [nextAfter ⟨0, true, false⟩ [0xF5, 0, 0, 0, 0x30], nextAfter ⟨0, false, true⟩ [0xF5, 0, 0, 0, 0x30],
        nextAfter ⟨0, false, true⟩ [0xF6, 0, 0, 0, 0x30], nextAfter ⟨0, true, false⟩ [0xF6, 0, 0, 0, 0x30]] =
      [some 0x30, some 0x15, some 0x30, some 0x15] := by decide +kernel

/-- JR to an unmapped address succeeds; the fetch of the next tick raises (Part 2.9). -/
theorem test_jr_unmapped :
    ((next? (step (boot (plain 0x20000) (plain 0) 0 [0x30]))).bind fun s => next? (step s)).map
      (fun s => (s.fatal, s.pcCurrent)) = some (some (.addressError 0x20000 1 .fetch), 0x20000) := by decide +kernel

theorem test_nop : (next? (step (boot (flagged 9) (plain 0) 7 [0xFD]))).map
    (fun s => (s.reg 0, s.pcCurrent, s.pcNext, s.running)) = some (flagged 9, 7, 8, true) := by decide +kernel

theorem test_hlt : (next? (step (boot (flagged 9) (plain 0) 9 [0xFF]))).map
    (fun s => (s.reg 0, s.pcCurrent, s.pcNext, s.running)) = some (flagged 9, 9, 10, false) := by decide +kernel

/-- RST at 9: registers, target pointer, program counter and device reset, clock stopped, RAM kept (Part 2.8). -/
theorem test_rst :
    (next? (step { boot (flagged 9) (plain 5) 9 [0xFE] with
        platform := withDevices [okDevice 0xFFFFFF00 4], dev := [testState 0 false 4] })).map
      (fun s => (([s.reg 0, s.reg 2], s.target, s.running), ([s.pcCurrent, s.pcNext], s.dev, Memory.read s.ram 9))) =
      some (([plain 0, plain 0], 0, false), ([0, 0], [testState 0 false 0], 0xFE)) := by decide +kernel

/-! ### Fetch errors (Part 2.9): `RAM_SIZE = 8` -/

def smallRam (a : Nat) (bytes : List Byte) : State :=
  { boot (plain 3) (plain 0) a bytes with platform := { Platform.reference with ramSize := 8 } }

theorem test_immediate_outside :
    (next? (step (smallRam 5 [0xF0]))).map (fun s => (s.fatal, s.pcCurrent, s.pcNext, s.reg 0)) =
      some (some (.addressError 6 4 .immediate), 5, 6, plain 3) := by decide +kernel

theorem test_immediate_last : (next? (step (smallRam 3 [0xF0, 0, 0, 0, 9]))).map (fun s => (s.reg 0, s.pcNext)) =
    some (plain 9, 8) := by decide +kernel

theorem test_fatal_then_no_tick :
    (next? (step (smallRam 8 []))).map (fun s => fault? (step s)) =
      some (some (.fatalError (.addressError 8 1 .fetch))) := by decide +kernel

theorem test_reset_clock_is_stopped : fault? (step State.reset) = some .clockStopped := by decide +kernel

/-! ### Devices, windows and interrupts (Parts 2.9 and 2.10, E6) -/

/-- A platform of test devices in the given states, with `x[0]`, `x[2]` and code as in `boot`. -/
def onDevices (ds : List Device) (states : List DevState) (s : State) : State :=
  { s with platform := withDevices ds, dev := states }

def tdev (start : Word) (vector : Option Word) : Device := ⟨"TDEV", start, 4, .testDevice vector 0, ⟨false, 0⟩⟩

theorem test_device_store :
    (next? (step (onDevices [tdev 0xFFFFFF00 none] [testState 0 false 0]
        (boot (plain 0x55AA) (plain (-256)) 0 [0x22])))).map (fun s => (s.dev, s.ram)) =
      some ([testState 0 false 0x55AA], [(0, 0x22)]) := by decide +kernel

theorem test_device_load :
    (next? (step (onDevices [tdev 0xFFFFFF00 none] [testState 0 false 0x55AA]
        (boot (plain 1) (plain (-256)) 0 [0x12])))).map (fun s => s.reg 0) = some (plain 0x55AA) := by decide +kernel

theorem test_device_fault :
    (next? (step (onDevices [tdev 0xFFFFFF00 none] [testState 0 false 0]
        (boot (plain 1) (plain (-255)) 0 [0x22])))).map (fun s => s.fatal) =
      some (some (.addressError 0xFFFFFF01 4 .deviceFault)) := by decide +kernel

/-- A store that starts in RAM and runs under a device is a pure RAM store (D19). -/
theorem test_store_under_device :
    (next? (step (onDevices [tdev 0x100 none] [testState 0 false 0]
        (boot (plain 0x11223344) (plain 0xFE) 0 [0x22])))).map
      (fun s => ([0xFE, 0xFF, 0x100, 0x101].map (Memory.read s.ram), s.dev,
        (memReadByte .read 0x100 s).toOption.map Prod.fst)) =
      some ([0x11, 0x22, 0x33, 0x44], [testState 0 false 0], some 0) := by decide +kernel

def withPcWindow (s : State) : State :=
  { s with platform := { Platform.reference with pcWindow := some 0xFFFFFFF0 } }

theorem test_pc_window_load :
    (next? (step (withPcWindow (boot (plain 1) (plain (-16)) 7 [0x12])))).map (fun s => s.reg 0) = some (plain 7) := by
  decide +kernel

theorem test_pc_window_store :
    (next? (step (withPcWindow (boot (plain 0x20) (plain (-16)) 0x0E [0x22])))).map State.pcNext = some 0x20 := by
  decide +kernel

theorem test_pc_window_offset_1 :
    (next? (step (withPcWindow (boot (plain 1) (plain (-15)) 7 [0x12])))).map State.fatal =
      some (some (.addressError 0xFFFFFFF1 4 .deviceFault)) := by decide +kernel

/-- Byte writes of the PC window (R40): byte 3 is the least significant. -/
theorem test_pc_window_byte_write :
    (memWriteByte 0xFFFFFFF3 0xAB (withPcWindow (boot (plain 1) (plain 0) 0x11223344 []))).toOption.map State.pcNext =
      some 0x112233AB := by decide +kernel

/-- The CPU window exposes `$TARGET`, and a write clears its flags (R42). -/
theorem test_cpu_window_store :
    (next? (step { boot (flagged 9) (plain (-16)) 0 [0x22] with
        platform := { Platform.reference with cpuWindow := some 0xFFFFFFF0 } })).map (fun s => s.reg 0) =
      some (plain 9) := by decide +kernel

/-- E6: the pending device preempts the INC at 0x10; `$RETURN = 0x11`, flags clear, `pc.next` at the vector. -/
theorem test_interrupt_entry :
    (next? (step (onDevices [tdev 0xFFFFFF00 (some 0x100)] [testState 0 true 0]
        ((boot (plain 0) (plain 0) 0x10 [0xF9]).setReg 15 (flagged (-1)))))).map
      (fun s => (s.reg 15, s.pcCurrent, s.pcNext, s.reg 0, s.dev)) =
      some (plain 17, 0x10, 0x100, plain 0, [testState 0 false 0]) := by decide +kernel

/-- A countdown that ends in phase 1 of the first tick interrupts that tick (R302). -/
theorem test_countdown_interrupts_first_tick :
    (next? (step (onDevices [tdev 0xFFFFFF00 (some 0x100)] [testState 1 false 0]
        (boot (plain 0) (plain 0) 0 [0xF9])))).map (fun s => (s.pcCurrent, s.view 15, s.pcNext)) =
      some (0, 1, 0x100) := by decide +kernel

/-- Two sources pending: the first in `DEVICES` is taken, the second stays pending (D15, R271). -/
theorem test_two_sources :
    (next? (step (onDevices [tdev 0xFFFFFF00 (some 0x100), tdev 0xFFFFFF04 (some 0x200)]
        [testState 0 true 0, testState 0 true 0] (boot (plain 0) (plain 0) 0x10 [])))).map
      (fun s => (s.view 15, s.pcNext, s.dev)) =
      some (0x11, 0x100, [testState 0 false 0, testState 0 true 0]) := by decide +kernel

/-! ### The environment (R50) -/

theorem test_start : (next? (environment .start State.reset)).map State.running = some true := by decide +kernel

theorem test_power_on_reset_leaves_fatal :
    (next? (environment .powerOnReset (State.reset.raise (.addressError 8 1 .fetch)))) = some State.reset := by
  decide +kernel

/-- A program of four bytes: the image is loaded from address 0 (R113). -/
theorem test_image_loaded : (powerOn { Platform.reference with image := [0xFC, 0x00, 0x83, 0xFF] }).ram =
    [(0, 0xFC), (2, 0x83), (3, 0xFF)] := by decide +kernel

/-! ### Witnesses: for each statement with hypotheses, a concrete state and operands that meet them together -/

open Sys2Proof.Statement

/-- One test device at 0xFFFFFF00 holding 5, `x[2]` as given. -/
def devAt (x2 : Int) : State :=
  onDevices [tdev 0xFFFFFF00 none] [testState 0 false 5] (boot (plain 7) (plain x2) 0 [])

/-- The CPU window at 0xFFFFFFF0, `x[2]` as given. -/
def cpuAt (x2 : Int) : State :=
  { boot (flagged 9) (plain x2) 0 [] with platform := { Platform.reference with cpuWindow := some 0xFFFFFFF0 } }

/-- Two pending sources, vectors 0x100 and 0x200, fetch at 0x10. -/
def twoPending : State :=
  onDevices [tdev 0xFFFFFF00 (some 0x100), tdev 0xFFFFFF04 (some 0x200)]
    [testState 0 true 0, testState 0 true 0] (boot (plain 0) (plain 0) 0x10 [])

/-- Two sources, the second pending. -/
def secondPending : State := { twoPending with dev := [testState 0 false 0, testState 0 true 0] }

/-- The encoding of `i` placed at `a`, the next fetch. -/
def code (x0 : Register) (a : Nat) (i : Instr) : State := boot x0 (plain 0) a (encode i)

/-- LdrLoadsTheAddressedWord, RAM: the last word is in range, the address after it is not. -/
theorem witness_ldr_ram :
    ((boot (plain 7) (plain 0xFFFC) 0 []).route 0xFFFC = .ram ∧ (boot (plain 7) (plain 0xFFFC) 0 []).view 2 = 0xFFFC ∧
      0xFFFC + 3 < (boot (plain 7) (plain 0xFFFC) 0 []).platform.ramSize) ∧
    ((boot (plain 7) (plain 0xFFFD) 0 []).route 0xFFFD = .ram ∧ (boot (plain 7) (plain 0xFFFD) 0 []).view 2 = 0xFFFD ∧
      (boot (plain 7) (plain 0xFFFD) 0 []).platform.ramSize ≤ 0xFFFD + 3) := by decide +kernel

/-- LdrLoadsTheAddressedWord, device: an access at offset 0 answers, at offset 3 it faults. -/
theorem witness_ldr_device :
    ((devAt (-256)).route ((devAt (-256)).view 2) = .device 0 0 ∧
      (devAt (-256)).device? 0 = some (tdev 0xFFFFFF00 none, testState 0 false 5) ∧
      (tdev 0xFFFFFF00 none).readInteger (testState 0 false 5) 0 = some (5, testState 0 false 5)) ∧
    ((devAt (-253)).route ((devAt (-253)).view 2) = .device 0 3 ∧
      (tdev 0xFFFFFF00 none).readInteger (testState 0 false 5) 3 = none) := by decide +kernel

/-- LdrLoadsTheAddressedWord, StoresWriteTheAddressedWord and DeviceAccessIsOneCall, the PC window: offsets 0, 1 and 3,
addressed by register 2. -/
theorem witness_pc_window :
    [-16, -15, -13].map (fun x => ((withPcWindow (boot (plain 1) (plain x) 7 [])).route
        ((withPcWindow (boot (plain 1) (plain x) 7 [])).view 2))) =
      [.pcWindow 0, .pcWindow 1, .pcWindow 3] ∧
    storeAddress (withPcWindow (boot (plain 1) (plain (-15)) 7 [])) (.str 2) = some 0xFFFFFFF1 := by decide +kernel

/-- StoresWriteTheAddressedWord, RAM, by STR and by STN: the last word in range and the address after it. -/
theorem witness_store_ram :
    (storeAddress (boot (plain 7) (plain 0xFFFC) 0 []) (.str 2) = some 0xFFFC ∧
      storeAddress (boot (plain 7) (plain 0xFFFC) 0 []) (.stn 0xFFFD) = some 0xFFFD) ∧
    Memory.wf (boot (plain 7) (plain 0xFFFC) 0 [0x22]).platform.ramSize (boot (plain 7) (plain 0xFFFC) 0 [0x22]).ram =
      true ∧
    (boot (plain 7) (plain 0xFFFC) 0 [0x22]).route 0xFFFC = .ram ∧
    (boot (plain 7) (plain 0xFFFC) 0 [0x22]).route 0xFFFD = .ram ∧
    0xFFFC + 3 < (boot (plain 7) (plain 0xFFFC) 0 [0x22]).platform.ramSize ∧
    (boot (plain 7) (plain 0xFFFC) 0 [0x22]).platform.ramSize ≤ 0xFFFD + 3 := by decide +kernel

/-- StoresWriteTheAddressedWord, device: offset 0 accepts, offset 3 faults. -/
theorem witness_store_device :
    storeAddress (devAt (-256)) (.str 2) = some 0xFFFFFF00 ∧ (devAt (-256)).route 0xFFFFFF00 = .device 0 0 ∧
    (devAt (-256)).route 0xFFFFFF03 = .device 0 3 ∧
    (devAt (-256)).device? 0 = some (tdev 0xFFFFFF00 none, testState 0 false 5) ∧
    (tdev 0xFFFFFF00 none).writeInteger (testState 0 false 5) 0 7 = some (testState 0 false 7) ∧
    (tdev 0xFFFFFF00 none).writeInteger (testState 0 false 5) 3 7 = none := by decide +kernel

/-- CpuWindowExposesTheTarget, and the CPU-window clauses of LdrLoadsTheAddressedWord, StoresWriteTheAddressedWord and
DeviceAccessIsOneCall: offsets 0, 1 and 3. -/
theorem witness_cpu_window :
    storeAddress (cpuAt (-16)) (.str 2) = some 0xFFFFFFF0 ∧ (cpuAt (-16)).view 2 = 0xFFFFFFF0 ∧
    [(cpuAt 0).route 0xFFFFFFF0, (cpuAt 0).route 0xFFFFFFF1, (cpuAt 0).route 0xFFFFFFF3] =
      [.cpuWindow 0, .cpuWindow 1, .cpuWindow 3] := by decide +kernel

/-- DivTruncatesAndFlagsZeroDivisor: a zero divisor, a divisor, and the one quotient out of range. -/
theorem witness_div :
    (boot (plain 7) (plain 0) 0 []).view 2 = 0 ∧ (boot (plain 7) (plain 2) 0 []).view 2 ≠ 0 ∧
    (boot (plain (-0x80000000)) (plain (-1)) 0 []).view 0 = BitVec.intMin 32 ∧
    (boot (plain (-0x80000000)) (plain (-1)) 0 []).view 2 = -1 := by decide +kernel

/-- PrimitivesAreBitVectorOperations, RangeFlagsAtEveryWidth, ThreeIncsSetCarry: the least width and a wider one. -/
theorem witness_widths :
    32 ≤ 32 ∧ 32 ≤ 33 ∧ 32 < 33 ∧ ((Reg.set 2147483645 : Reg 32).acc.toInt, (Reg.set 2147483645 : Reg 33).acc.toInt) =
      (2147483645, 2147483645) := by decide +kernel

/-- ConditionalJumpTickSkipsItsImmediate: each conditional jump, taken and not taken. -/
theorem witness_conditional_tests :
    [jumpTest (.jz 0x30) (plain 0), jumpTest (.jz 0x30) (plain 1), jumpTest (.jn 0x30) (plain (-1)),
        jumpTest (.jn 0x30) (plain 0), jumpTest (.jc 0x30) ⟨0, true, false⟩, jumpTest (.jc 0x30) ⟨0, false, true⟩,
        jumpTest (.jv 0x30) ⟨0, false, true⟩, jumpTest (.jv 0x30) ⟨0, true, false⟩] =
      [some (0x30, true), some (0x30, false), some (0x30, true), some (0x30, false), some (0x30, true),
        some (0x30, false), some (0x30, true), some (0x30, false)] := by decide +kernel

/-- ConditionalJumpTickSkipsItsImmediate: a JZ in the last five bytes of RAM. -/
theorem witness_conditional_jump_tick :
    Fetches (code (plain 0) 65531 (.jz 0x30)) ∧ CodeAt (code (plain 0) 65531 (.jz 0x30)) (.jz 0x30) := by
  unfold Fetches CodeAt PlainRam; decide +kernel

/-- JumpHasNoDelaySlot: a J, and a JZ that is taken. -/
theorem witness_jump_tick :
    (Fetches (code (plain 0) 0x10 (.j 0x30)) ∧ CodeAt (code (plain 0) 0x10 (.j 0x30)) (.j 0x30) ∧
      takenTarget (code (plain 0) 0x10 (.j 0x30)) (.j 0x30) = some 0x30) ∧
    Fetches (code (plain 0) 0x10 (.jz 0x30)) ∧ CodeAt (code (plain 0) 0x10 (.jz 0x30)) (.jz 0x30) ∧
      takenTarget (code (plain 0) 0x10 (.jz 0x30)) (.jz 0x30) = some 0x30 := by
  unfold Fetches CodeAt PlainRam; decide +kernel

/-- JumpHasNoDelaySlot: a JR in the last byte of RAM, to the address in the target register. -/
theorem witness_jump_register_tick :
    Fetches (code (plain (-256)) 65535 (.jr 0)) ∧ CodeAt (code (plain (-256)) 65535 (.jr 0)) (.jr 0) ∧
      takenTarget (code (plain (-256)) 65535 (.jr 0)) (.jr 0) = some 0xFFFFFF00 := by
  unfold Fetches CodeAt PlainRam; decide +kernel

/-- HltStopsTheClockAfterItsTick: a HLT in the last byte of RAM. -/
theorem witness_hlt_tick :
    Fetches (code (plain 0) 65535 .hlt) ∧ CodeAt (code (plain 0) 65535 .hlt) .hlt := by
  unfold Fetches CodeAt PlainRam; decide +kernel

/-- RstResetsAllButRam and DeviceAccessIsOneCall: a device that is there, first and last address. -/
theorem witness_device_there :
    (devAt 0).device? 0 = some (tdev 0xFFFFFF00 none, testState 0 false 5) ∧
    (devAt 0).route 0xFFFFFF00 = .device 0 0 ∧ (devAt 0).route 0xFFFFFF03 = .device 0 3 := by decide +kernel

/-- RamAccesses: bytes and words at both sides of the end of RAM. -/
theorem witness_ram_accesses :
    [0xFFFC, 0xFFFD, 0xFFFF, 0x10000].map (State.reset.route ·) = [.ram, .ram, .ram, .ram] ∧
    Memory.wf State.reset.platform.ramSize State.reset.ram = true ∧
    0xFFFF < State.reset.platform.ramSize ∧ State.reset.platform.ramSize ≤ 0x10000 ∧
    0xFFFC + 3 < State.reset.platform.ramSize ∧ State.reset.platform.ramSize ≤ 0xFFFD + 3 := by decide +kernel

/-- WordWriteThenReadIsBigEndian: the last word of RAM, its first and last byte. -/
theorem witness_word_write :
    (∃ t, memWriteWord 0xFFFC 0x11223344 State.reset = .ok t) ∧ State.reset.route 0xFFFC = .ram ∧
    State.reset.route 0xFFFF = .ram ∧ (0xFFFF#32).toNat = (0xFFFC#32).toNat + 3 :=
  ⟨⟨_, rfl⟩, by decide +kernel, by decide +kernel, by decide +kernel⟩

/-- RamAccessRunsUnderDevices: a word at 0xFE whose last two bytes lie under a device. -/
theorem witness_under_device :
    (onDevices [tdev 0x100 none] [testState 0 false 0] State.reset).route 0xFE = .ram ∧
    Memory.wf 65536 (onDevices [tdev 0x100 none] [testState 0 false 0] State.reset).ram = true ∧
    0xFE + 3 < (onDevices [tdev 0x100 none] [testState 0 false 0] State.reset).platform.ramSize ∧
    Platform.route (withDevices [tdev 0x100 none]) (0xFE + 2) ≠ .ram ∧
    Platform.route (withDevices [tdev 0x100 none]) (0xFE + 3) ≠ .ram := by decide +kernel

/-- DevicesTouchOnlyThemselves: each of the four accesses answers. -/
theorem witness_isolation :
    (∃ y t, memReadByte .read 0xFFFFFF03 (devAt 0) = .ok (y, t)) ∧
    (∃ x t, memReadWord .read 0xFFFFFF00 (devAt 0) = .ok (x, t)) ∧
    (∃ t, memWriteByte 0xFFFFFF03 9 (devAt 0) = .ok t) ∧ (∃ t, memWriteWord 0xFFFFFF00 9 (devAt 0) = .ok t) :=
  ⟨⟨_, _, rfl⟩, ⟨_, _, rfl⟩, ⟨_, rfl⟩, ⟨_, rfl⟩⟩

/-- VectorReadClearsPending. -/
theorem witness_vector_read :
    (tdev 0xFFFFFF00 (some 0x100)).readVector (testState 0 true 7) = some (0x100, testState 0 false 7) := by
  decide +kernel

/-- ArbiterTakesTheFirstPendingSource: no source, the first, the second. -/
theorem witness_arbiter :
    State.reset.arbitrate = none ∧ twoPending.arbitrate = some 0 ∧ secondPending.arbitrate = some 1 ∧
    twoPending.platform.scanOrder = [] ∧ secondPending.platform.scanOrder = [] := by decide +kernel

/-- OnePendingSourceIsVectored: the second of two devices is the only source pending. -/
theorem witness_one_pending :
    secondPending.running = true ∧ secondPending.fatal = none ∧
    (∀ j, secondPending.broadcast.sourcePending j = decide (j = 1)) ∧
    secondPending.broadcast.device? 1 = some (tdev 0xFFFFFF04 (some 0x200), testState 0 true 0) := by
  refine ⟨rfl, rfl, fun j => ?_, by decide +kernel⟩
  match j with
  | 0 => decide +kernel
  | 1 => decide +kernel
  | n + 2 => rfl

/-- InterruptEntryFrame and HandlerReturnAddresses. -/
theorem witness_takes_interrupt : TakesInterrupt twoPending 0 ∧ TakesInterrupt secondPending 1 := by
  unfold TakesInterrupt; decide +kernel

/-- SecondEntryOverwritesReturn: after the first entry the second source is still pending. -/
theorem witness_second_entry :
    TakesInterrupt twoPending 0 ∧ ∃ t, step twoPending = .next t ∧ t.broadcast.arbitrate = some 1 :=
  ⟨witness_takes_interrupt.1, _, rfl, by decide +kernel⟩

/-- TickHappensExactlyWhileRunning and FatalErrorIsSticky: a running, a stopped and a fatal state. -/
theorem witness_clock :
    ((boot (plain 0) (plain 0) 0 []).running = true ∧ (boot (plain 0) (plain 0) 0 []).fatal = none) ∧
    (State.reset.fatal = none ∧ State.reset.running = false) ∧
    (State.reset.raise (.addressError 8 1 .fetch)).fatal = some (.addressError 8 1 .fetch) := by decide +kernel

/-- FetchOutsideRamIsFatal: the first address outside RAM, and the last address of all. -/
theorem witness_fetch_outside :
    (Fetches (boot (plain 0) (plain 0) 65536 []) ∧ (boot (plain 0) (plain 0) 65536 []).route 65536 = .ram ∧
      (boot (plain 0) (plain 0) 65536 []).platform.ramSize ≤ 65536) ∧
    Fetches (boot (plain 0) (plain 0) 0xFFFFFFFF []) ∧
      (boot (plain 0) (plain 0) 0xFFFFFFFF []).route 0xFFFFFFFF = .ram := by
  unfold Fetches; decide +kernel

/-- FetchOutsideRamIsFatal and the phase 1 of StepRunsTheDecodedInstruction: with a device that counts down. -/
theorem witness_device_ticks :
    Fetches (onDevices [tdev 0xFFFFFF00 none] [testState 2 false 5] (boot (plain 0) (plain 0) 65536 [])) ∧
    (onDevices [tdev 0xFFFFFF00 none] [testState 2 false 5] (boot (plain 0) (plain 0) 65536 [])).device? 0 =
      some (tdev 0xFFFFFF00 none, testState 2 false 5) ∧
    (tdev 0xFFFFFF00 none).tick (testState 2 false 5) = testState 1 false 5 := by
  unfold Fetches; decide +kernel

/-- ImmediateOutsideRamIsFatal: the first and the last wide opcode, with one and with all four bytes outside. -/
theorem witness_immediate_outside :
    (Fetches (smallRam 4 [0xF0]) ∧ PlainRam (smallRam 4 [0xF0]) 4 1 ∧
      Memory.read (smallRam 4 [0xF0]).ram 4 = 0xF0 ∧ (smallRam 4 [0xF0]).route (4 + 1) = .ram ∧
      (smallRam 4 [0xF0]).platform.ramSize ≤ 4 + 1 + 3) ∧
    Fetches (smallRam 7 [0xF6]) ∧ PlainRam (smallRam 7 [0xF6]) 7 1 ∧
      Memory.read (smallRam 7 [0xF6]).ram 7 = 0xF6 ∧ (smallRam 7 [0xF6]).route (7 + 1) = .ram := by
  unfold Fetches PlainRam; decide +kernel

/-- StepRunsTheDecodedInstruction: an LDN in the last five bytes of RAM, and an INC. -/
theorem witness_step :
    (Fetches (code (plain 0) 65531 (.ldn 5)) ∧ PlainRam (code (plain 0) 65531 (.ldn 5)) 65531 5 ∧
      decoded (ramBytes (code (plain 0) 65531 (.ldn 5)) 65531 5) = some (.ldn 5)) ∧
    Fetches (code (plain 0) 0 .inc) ∧ PlainRam (code (plain 0) 0 .inc) 0 1 ∧
      decoded (ramBytes (code (plain 0) 0 .inc) 0 1) = some .inc := by
  unfold Fetches PlainRam; decide +kernel

/-- A test device at 0xFFFFFF00 that holds `last`, and the next fetch there. -/
def codeInDevice (last : Word) : State :=
  onDevices [tdev 0xFFFFFF00 none] [testState 0 false last] (boot (plain 7) (plain 0) 0xFFFFFF00 [])

/-- StepRunsTheDecodedInstruction, an opcode byte read from a device. -/
theorem witness_step_device :
    Fetches (codeInDevice 0xF9000000) ∧
    (∃ u, memReadByte .fetch (codeInDevice 0xF9000000).pcNext (codeInDevice 0xF9000000).broadcast = .ok (0xF9, u)) ∧
    decode [0xF9] = .ok (.inc, []) :=
  ⟨by unfold Fetches; decide +kernel, ⟨_, rfl⟩, rfl⟩

/-- StepRunsTheDecodedInstruction, a wide opcode whose bytes the router reads from RAM. -/
theorem witness_step_wide :
    Fetches (code (plain 0) 0 (.ldn 5)) ∧
    (∃ u, memReadByte .fetch 0 (code (plain 0) 0 (.ldn 5)).broadcast = .ok (0xF0, u) ∧
      ∃ v, memReadWord .immediate (0 + 1) u = .ok (5, v)) ∧
    decode [0xF0, wordByte 5 0, wordByte 5 1, wordByte 5 2, wordByte 5 3] = .ok (.ldn 5, []) :=
  ⟨by unfold Fetches; decide +kernel, ⟨_, rfl, _, rfl⟩, rfl⟩

/-- DecodeEncodeRoundTrip and EncodeDecodeRoundTrip. -/
theorem witness_decode :
    (Instr.jv 0x12345678).wellFormed = true ∧
    decode [0xF6, 0x12, 0x34, 0x56, 0x78, 0xFF] = .ok (.jv 0x12345678, [0xFF]) := ⟨rfl, rfl⟩

/-- EveryOpcodeByteDecodes, StepKeepsWellFormed and PlatformNeverChanges: a well-formed state with a device and code,
whose step answers. -/
theorem witness_wellFormed_step :
    ({ devAt 7 with ram := [(0, 0xFD)] }).wellFormed = true ∧
    ∃ t, step { devAt 7 with ram := [(0, 0xFD)] } = .next t := ⟨by decide +kernel, _, rfl⟩

/-- TargetWrittenOnlyBySelAndRst, CurrentIsStableDuringATick, OtherRegistersAreUnchanged, OnlyHltAndRstStopTheClock. -/
theorem witness_exec :
    (∃ t, exec .inc (boot (plain 7) (plain 0) 0 []) = .next t) ∧ (∀ r, Instr.inc ≠ .sel r) ∧ Instr.inc ≠ .rst ∧
    (15 : Nibble) ≠ (boot (plain 7) (plain 0) 0 []).target ∧ Instr.inc ≠ .cp 15 :=
  ⟨⟨_, rfl⟩, fun _ h => Instr.noConfusion h, by decide, by decide, by decide⟩

/-- OnlyStoresWriteRam: an instruction that stores and one that does not. -/
theorem witness_only_stores :
    (∃ t, exec (.stn 0xFFFC) (boot (plain 7) (plain 0) 0 []) = .next t) ∧
    storeAddress (boot (plain 7) (plain 0) 0 []) (.stn 0xFFFC) = some 0xFFFC ∧
    storeAddress (boot (plain 7) (plain 0) 0 []) .inc = none := ⟨⟨_, rfl⟩, rfl, rfl⟩

/-- FlagsAreReadOnlyByJcAndJv: two states that differ in two flags. -/
theorem witness_flags :
    SameButFlags (boot (plain 7) (plain 0) 0 []) (boot (flagged 7) (plain 0) 0 []) ∧
    (boot (plain 7) (plain 0) 0 []).reg 0 ≠ (boot (flagged 7) (plain 0) 0 []).reg 0 := by
  refine ⟨⟨by decide +kernel, rfl, ⟨rfl, rfl⟩, rfl, rfl, rfl, rfl, rfl⟩, by decide +kernel⟩

/-- PowerOnValues: a platform with an image and a device, and a state of such a platform. -/
theorem witness_power_on :
    (∃ s, bringUp { withDevices [tdev 0xFFFFFF00 none] with image := [0xFC, 0x00, 0x83, 0xFF] } = .ok s) ∧
    ([0xFC, 0x00, 0x83, 0xFF] : List Byte)[3]? = some 0xFF ∧
    (devAt 0).platform = withDevices [tdev 0xFFFFFF00 none] := ⟨⟨_, rfl⟩, rfl, rfl⟩

/-- Power-on calls the device's reset handler (R70): a TDEV configured in another state starts at `(countdown, false, 0)`
(spec/95_test_vectors.md, the table of TDEV). -/
theorem test_power_on_resets_devices :
    (powerOn (withDevices [⟨"TDEV", 0xFFFFFF00, 4, .testDevice none 3, testState 1 true 9⟩])).dev =
      [testState 3 false 0] := by decide +kernel

/-- OverlappingRangesAreRefused: two ranges that share their last and first address, and two that touch. -/
theorem witness_overlap :
    (withDevices [tdev 0xFFFFFF00 none, tdev 0xFFFFFF03 none]).ranges = [(0xFFFFFF00, 4), (0xFFFFFF03, 4)] ∧
    shareAddress (0xFFFFFF00, 4) (0xFFFFFF03, 4) ∧ ¬ shareAddress (0xFFFFFF00, 4) (0xFFFFFF04, 4) ∧
    1 ≤ (withDevices []).ramSize ∧ (withDevices []).ramSize ≤ 2 ^ 32 ∧ 0xFFFFFF03 + 4 ≤ 2 ^ 32 := by
  refine ⟨by decide +kernel, ⟨0xFFFFFF03, by decide⟩, ?_, by decide +kernel, by decide +kernel, by decide⟩
  rintro ⟨a, h1, h2⟩
  simp only at h1 h2
  omega

end Sys2Proof.Tests
end

section
/-! PROOFS. The whole-machine rules and bring-up (spec/10_state.md, spec/70_reset_and_hazards.md). First what an
instruction can do to the state, said once (`InstrClass`, `Effect`), then what that leaves unchanged. -/

namespace Sys2Proof.Machine
open Sys2Proof.Statement

/-! ### The instructions by what they do -/

/-- The primitive that an instruction applies to `$TARGET` and to nothing else, for the operands that the registers
hold (R160). -/
def targetPrimitive (operand : Nibble → Int) : Instr → Option (Register → Register)
  | .and r => some fun x => x.andWith (operand r)
  | .or r => some fun x => x.orWith (operand r)
  | .xor r => some fun x => x.xorWith (operand r)
  | .add r => some fun x => x.addTo (operand r)
  | .sub r => some fun x => x.subtract (operand r)
  | .mul r => some fun x => x.multiplyBy (operand r)
  | .div r => some fun x => x.divideBy (operand r)
  | .shl n => some fun x => x.shiftLeft n.toNat
  | .shr n => some fun x => x.shiftRight n.toNat
  | .ssr n => some fun x => x.signedShiftRight n.toNat
  | .ldn d => some fun _ => Reg.set d.toInt
  | .com => some fun x => x.complement
  | .neg => some fun x => x.negate
  | .inc => some fun x => x.addTo 1
  | .dec => some fun x => x.subtract 1
  | .clr => some fun _ => Reg.set 0
  | .uno => some fun _ => Reg.set 1
  | _ => none

/-- What kind of instruction `i` is in `s`. -/
inductive InstrClass (s : State) : Instr → Prop where
  | select (r : Nibble) : InstrClass s (.sel r)
  | copy (r : Nibble) : InstrClass s (.cp r)
  | load (r : Nibble) : InstrClass s (.ldr r)
  | store {i : Instr} {a : Word} (h : storeAddress s i = some a) : InstrClass s i
  | primitive {i : Instr} {f : Register → Register} (h : targetPrimitive s.signedView i = some f) : InstrClass s i
  | jumpRegister (r : Nibble) : InstrClass s (.jr r)
  | jump (d : Word) : InstrClass s (.j d)
  | test {i : Instr} {d : Word} {taken : Bool} (h : jumpTest i s.targetReg = some (d, taken)) : InstrClass s i
  | nop : InstrClass s .nop
  | reset : InstrClass s .rst
  | halt : InstrClass s .hlt

theorem instrClass (s : State) (i : Instr) : InstrClass s i := by
  cases i with
  | sel r => exact .select r
  | cp r => exact .copy r
  | ldr r => exact .load r
  | str _ | stn _ => exact .store rfl
  | jr r => exact .jumpRegister r
  | j d => exact .jump d
  | jz _ | jn _ | jc _ | jv _ => exact .test rfl
  | nop => exact .nop
  | rst => exact .reset
  | hlt => exact .halt
  | _ => exact .primitive rfl

theorem exec_of_targetPrimitive {s : State} {i : Instr} {f : Register → Register}
    (h : targetPrimitive s.signedView i = some f) : exec i s = .next (s.setTarget (f s.targetReg)) := by
  cases i <;> cases h <;> rfl

theorem exec_of_storeAddress {s : State} {i : Instr} {a : Word} (h : storeAddress s i = some a) :
    exec i s = storeTarget a s := by
  cases i <;> cases h <;> rfl

theorem exec_of_jumpTest {s : State} {i : Instr} {d : Word} {taken : Bool}
    (h : jumpTest i s.targetReg = some (d, taken)) : exec i s = .next (jumpIf taken d s) := by
  unfold jumpTest at h
  split at h <;> cases h
  · exact congrArg (fun b => Host.Outcome.next (jumpIf b _ s)) (Reg.isZero_eq s.targetReg)
  · exact congrArg (fun b => Host.Outcome.next (jumpIf b _ s)) (Reg.isNegative_eq s.targetReg)
  · rfl
  · rfl

/-! ### What an instruction can do to the state -/

/-- The ways in which an instruction can change `s`. Only the effects that a frame rule must tell apart name their
instruction (SEL, CP, RST, HLT, a store); the others stand for any. -/
inductive Effect (s : State) : Instr → State → Prop where
  | select (r : Nibble) : Effect s (.sel r) (s.select r)
  | copy (r : Nibble) : Effect s (.cp r) (s.setValue r (s.signedView s.target))
  | reset : Effect s .rst s.resetCore
  | halt : Effect s .hlt s.halt
  | nothing (i : Instr) : Effect s i s
  | target (i : Instr) (x : Register) : Effect s i (s.setTarget x)
  | jump (i : Instr) (a : Word) : Effect s i (s.jump a)
  | device (i : Instr) (k : Nat) (st : DevState) : Effect s i (s.setDev k st)
  | deviceLoad (i : Instr) (k : Nat) (st : DevState) (x : Register) : Effect s i ((s.setDev k st).setTarget x)
  | store {i : Instr} {a : Word} (v : Word) (ha : storeAddress s i = some a)
      (hin : a.toNat + 3 < s.platform.ramSize) : Effect s i (s.setRam (Memory.writeWord s.ram a.toNat v))
  | error (i : Instr) (a : Word) (n : Nat) (kind : AccessKind) : Effect s i (s.addressError a n kind)

theorem effect_of_loadTarget {a : Word} {s t : State} (i : Instr) (h : loadTarget a s = .next t) : Effect s i t := by
  rcases loadTarget_cases a s with ⟨v, u, hread, hload⟩ | ⟨kind, hload⟩ <;> rw [hload] at h <;> cases h
  · rcases memReadWord_ok hread with rfl | ⟨k, st, rfl⟩
    · exact .target i _
    · exact .deviceLoad i k st _
  · exact .error i a 4 kind

theorem effect_of_storeTarget {a : Word} {s t : State} {i : Instr} (ha : storeAddress s i = some a)
    (h : storeTarget a s = .next t) : Effect s i t := by
  rcases storeTarget_cases a s with ⟨u, hwrite, hstore⟩ | ⟨kind, hstore⟩ <;> rw [hstore] at h <;> cases h
  · rcases memWriteWord_ok hwrite with rfl | rfl | ⟨k, st, rfl⟩ | ⟨-, hin, rfl⟩
    · exact .jump i _
    · exact .target i _
    · exact .device i k st
    · exact .store _ ha hin
  · exact .error i a 4 kind

theorem effect_of_jumpIf (i : Instr) (taken : Bool) (d : Word) (s : State) : Effect s i (jumpIf taken d s) := by
  cases taken with
  | true => exact .jump i d
  | false => exact .nothing i

/-- Inversion of `exec`: what the answer of an instruction is. -/
theorem exec_effect {i : Instr} {s t : State} (h : exec i s = .next t) : Effect s i t := by
  cases instrClass s i with
  | select r => cases h; exact .select r
  | copy r => cases h; exact .copy r
  | load r => exact effect_of_loadTarget _ h
  | store ha => exact effect_of_storeTarget ha (exec_of_storeAddress ha ▸ h)
  | primitive hf => rw [exec_of_targetPrimitive hf] at h; cases h; exact .target i _
  | jumpRegister r => cases h; exact .jump _ _
  | jump d => cases h; exact .jump _ d
  | test hj => rw [exec_of_jumpTest hj] at h; cases h; exact effect_of_jumpIf i _ _ s
  | nop => cases h; exact .nothing _
  | reset => cases h; exact .reset
  | halt => cases h; exact .halt

/-! ### What an instruction leaves unchanged -/

section
variable {s t : State} {i : Instr}

theorem Effect.target_eq (h : Effect s i t) (hsel : ∀ r, i ≠ .sel r) (hrst : i ≠ .rst) : t.target = s.target := by
  cases h with
  | select r => exact absurd rfl (hsel r)
  | reset => exact absurd rfl hrst
  | _ => rfl

theorem Effect.pcCurrent_eq (h : Effect s i t) (hrst : i ≠ .rst) : t.pcCurrent = s.pcCurrent := by
  cases h with
  | reset => exact absurd rfl hrst
  | _ => rfl

theorem Effect.running_eq (h : Effect s i t) (hhlt : i ≠ .hlt) (hrst : i ≠ .rst) : t.running = s.running := by
  cases h with
  | halt => exact absurd rfl hhlt
  | reset => exact absurd rfl hrst
  | _ => rfl

theorem Effect.platform_eq (h : Effect s i t) : t.platform = s.platform := by
  cases h <;> rfl

/-- An instruction leaves RAM alone, or it is a store inside RAM at the address it computes. -/
theorem Effect.ram_cases (h : Effect s i t) : t.ram = s.ram ∨
    ∃ a v, storeAddress s i = some a ∧ a.toNat + 3 < s.platform.ramSize ∧
      t.ram = Memory.writeWord s.ram a.toNat v := by
  cases h with
  | store v ha hin => exact .inr ⟨_, v, ha, hin, rfl⟩
  | _ => exact .inl rfl

theorem Effect.reg_eq {p : Nibble} (h : Effect s i t) (hp : p ≠ s.target) (hcp : i ≠ .cp p) (hrst : i ≠ .rst) :
    t.reg p = s.reg p := by
  cases h with
  | copy r => exact State.reg_setReg_ne s r p _ fun e => hcp (e ▸ rfl)
  | reset => exact absurd rfl hrst
  | target _ x => exact State.reg_setReg_ne s s.target p x hp
  | deviceLoad _ k st x => exact State.reg_setReg_ne (s.setDev k st) s.target p x hp
  | _ => rfl

/-- The number of devices stays, given one state for each device (R36). -/
theorem Effect.dev_length (h : Effect s i t) (hdev : s.dev.length = s.platform.devices.length) :
    t.dev.length = s.dev.length := by
  cases h with
  | reset => simp [hdev]
  | device _ k st => simp
  | deviceLoad _ k st x => simp
  | _ => rfl

end

/-! ### The state invariant -/

theorem State.wellFormed_iff (s : State) : s.wellFormed = true ↔
    Memory.wf s.platform.ramSize s.ram = true ∧ s.dev.length = s.platform.devices.length ∧
      s.platform.wellFormed = true := by
  simp [State.wellFormed, and_assoc]

/-- RAM, the configuration and the number of device states are unchanged. -/
structure SameLayout (s t : State) : Prop where
  platform : t.platform = s.platform
  ram : t.ram = s.ram
  devices : t.dev.length = s.dev.length

theorem SameLayout.trans {s t u : State} (h : SameLayout s t) (h' : SameLayout t u) : SameLayout s u :=
  ⟨h'.platform.trans h.platform, h'.ram.trans h.ram, h'.devices.trans h.devices⟩

theorem SameLayout.wellFormed {s t : State} (h : SameLayout s t) (hs : s.wellFormed = true) : t.wellFormed = true := by
  rw [State.wellFormed_iff] at hs ⊢
  rwa [h.platform, h.ram, h.devices]

theorem sameLayout_setDev (s : State) (k : Nat) (st : DevState) : SameLayout s (s.setDev k st) :=
  ⟨rfl, rfl, List.length_set⟩

theorem memReadByte_sameLayout {kind : AccessKind} {a : Word} {s t : State} {b : Byte}
    (h : memReadByte kind a s = .ok (b, t)) : SameLayout s t := by
  rcases memReadByte_ok h with rfl | ⟨k, st, rfl⟩
  · exact ⟨rfl, rfl, rfl⟩
  · exact sameLayout_setDev s k st

theorem memReadWord_sameLayout {kind : AccessKind} {a : Word} {s t : State} {v : Word}
    (h : memReadWord kind a s = .ok (v, t)) : SameLayout s t := by
  rcases memReadWord_ok h with rfl | ⟨k, st, rfl⟩
  · exact ⟨rfl, rfl, rfl⟩
  · exact sameLayout_setDev s k st

theorem fetch_ok_sameLayout {s t : State} {i : Instr} (h : fetch s = .ok (i, t)) : SameLayout s t := by
  rcases fetch_cases s with ⟨_, _, _, hb, -, e⟩ | ⟨_, _, _, u, _, hb, -, hd, e⟩ | ⟨_, e⟩ | ⟨_, _, _, -, e⟩ <;>
    rw [e] at h <;> cases h
  · exact memReadByte_sameLayout hb
  · have hskip : SameLayout u u.skipImmediate := ⟨rfl, rfl, rfl⟩
    exact ((memReadByte_sameLayout hb).trans (memReadWord_sameLayout hd)).trans hskip

theorem fetch_error_sameLayout {s t : State} (h : fetch s = .error t) : SameLayout s t := by
  rcases fetch_cases s with ⟨_, _, _, -, -, e⟩ | ⟨_, _, _, _, _, -, -, -, e⟩ | ⟨_, e⟩ | ⟨_, _, _, hb, e⟩ <;>
    rw [e] at h <;> cases h
  · exact ⟨rfl, rfl, rfl⟩
  · exact (memReadByte_sameLayout hb).trans ⟨rfl, rfl, rfl⟩

theorem State.interruptEntry_sameLayout {s : State} {k : Nat} (h : s.arbitrate = some k) :
    SameLayout s (s.interruptEntry k) := by
  obtain ⟨d, st, vec, inner, hd, -, hv⟩ := State.sourcePending_cases (State.arbitrate_some h)
  rw [State.interruptEntry_eq hd hv]
  exact ⟨rfl, rfl, List.length_set⟩

theorem State.broadcast_sameLayout {s : State} (hdev : s.dev.length = s.platform.devices.length) :
    SameLayout s s.broadcast :=
  ⟨rfl, rfl, by simp [hdev]⟩

theorem exec_wellFormed {i : Instr} {s t : State} (hs : s.wellFormed = true) (h : exec i s = .next t) :
    t.wellFormed = true := by
  obtain ⟨hram, hdev, hplatform⟩ := s.wellFormed_iff.mp hs
  have he := exec_effect h
  have hlen := he.dev_length hdev
  rcases he.ram_cases with hsame | ⟨a, v, -, hin, hstore⟩
  · exact SameLayout.wellFormed ⟨he.platform_eq, hsame, hlen⟩ hs
  · rw [State.wellFormed_iff, he.platform_eq, hstore, hlen]
    exact ⟨Memory.wf_writeWord s.ram a.toNat v hram (by omega), hdev, hplatform⟩

/-! ### The flags and what reads them -/

/-- A primitive of `$TARGET` reads its value and neither of its flags (R160). -/
theorem targetPrimitive_ignores_flags {operand : Nibble → Int} {i : Instr} {f : Register → Register}
    (h : targetPrimitive operand i = some f) (x : Register) : f x = f (clean x.acc) := by
  cases i <;> cases h <;> rfl

/-- What one routed access answers in two states: both complete, with related answers, or both raise. -/
inductive SameAccess {α : Type} (related : α → α → Prop) : Except State α → Except State α → Prop where
  | ok {x x' : α} (h : related x x') : SameAccess related (.ok x) (.ok x')
  | error {u u' : State} (h : SameButFlags u u') : SameAccess related (.error u) (.error u')

/-- The answers of a read: one value, and states that differ in flags only. -/
def SameRead {α : Type} (x x' : α × State) : Prop := x'.1 = x.1 ∧ SameButFlags x.2 x'.2

/-- Both outcomes are next states, which differ in flags only. -/
def SameOutcome (o o' : Host.Outcome State Fault Refusal) : Prop :=
  ∃ t t', o = .next t ∧ o' = .next t' ∧ SameButFlags t t'

theorem SameOutcome.next {t t' : State} (h : SameButFlags t t') : SameOutcome (.next t) (.next t') :=
  ⟨t, t', rfl, rfl, h⟩

section
variable {s s' : State}

theorem sameButFlags_view (h : SameButFlags s s') (r : Nibble) : s'.view r = s.view r := by
  obtain ⟨hacc, -⟩ := h
  simp only [State.view, Reg.view_eq_acc, hacc]

theorem sameButFlags_signedView (h : SameButFlags s s') : s'.signedView = s.signedView := by
  funext r
  simp only [State.signedView, sameButFlags_view h]

theorem sameButFlags_target (h : SameButFlags s s') : s'.target = s.target := h.2.1

theorem sameButFlags_targetView (h : SameButFlags s s') : s'.targetView = s.targetView := by
  simp only [State.targetView, sameButFlags_target h, sameButFlags_view h]

theorem sameButFlags_targetReg_acc (h : SameButFlags s s') : s'.targetReg.acc = s.targetReg.acc := by
  simp only [State.targetReg, sameButFlags_target h]
  exact h.1 s.target

theorem sameButFlags_route (h : SameButFlags s s') (a : Word) : s'.route a = s.route a := by
  obtain ⟨-, -, -, -, -, -, -, hplatform⟩ := h
  simp only [State.route, hplatform]

theorem sameButFlags_device? (h : SameButFlags s s') (k : Nat) : s'.device? k = s.device? k := by
  obtain ⟨-, -, -, -, hdev, -, -, hplatform⟩ := h
  simp only [State.device?, hdev, hplatform]

theorem sameButFlags_storeAddress (h : SameButFlags s s') (i : Instr) : storeAddress s' i = storeAddress s i := by
  cases i <;> simp only [storeAddress, sameButFlags_view h]

/-- The jumps but JC and JV test the value alone (R233, R234). -/
theorem sameButFlags_jumpTest (h : SameButFlags s s') {i : Instr} (hjc : ∀ d, i ≠ .jc d) (hjv : ∀ d, i ≠ .jv d) :
    jumpTest i s'.targetReg = jumpTest i s.targetReg := by
  cases i with
  | jc d => exact absurd rfl (hjc d)
  | jv d => exact absurd rfl (hjv d)
  | jz d => simp only [jumpTest, sameButFlags_targetReg_acc h]
  | jn d => simp only [jumpTest, sameButFlags_targetReg_acc h]
  | _ => rfl

theorem sameButFlags_setReg (h : SameButFlags s s') (r : Nibble) (x : Register) :
    SameButFlags (s.setReg r x) (s'.setReg r x) := by
  obtain ⟨hacc, hrest⟩ := h
  refine ⟨fun p => ?_, hrest⟩
  by_cases hp : p = r
  · simp only [hp, State.reg_setReg_self]
  · simp only [State.reg_setReg_ne _ _ _ _ hp, hacc]

theorem sameButFlags_setTarget (h : SameButFlags s s') (x : Register) :
    SameButFlags (s.setTarget x) (s'.setTarget x) := by
  simp only [State.setTarget_eq_setReg, sameButFlags_target h]
  exact sameButFlags_setReg h s.target x

theorem sameButFlags_select (h : SameButFlags s s') (r : Nibble) : SameButFlags (s.select r) (s'.select r) := by
  obtain ⟨hacc, -, hrest⟩ := h
  exact ⟨hacc, rfl, hrest⟩

theorem sameButFlags_jump (h : SameButFlags s s') (a : Word) : SameButFlags (s.jump a) (s'.jump a) := by
  obtain ⟨hacc, htarget, ⟨hcurrent, -⟩, hrest⟩ := h
  exact ⟨hacc, htarget, ⟨hcurrent, rfl⟩, hrest⟩

theorem sameButFlags_jumpIf (h : SameButFlags s s') (taken : Bool) (d : Word) :
    SameButFlags (jumpIf taken d s) (jumpIf taken d s') := by
  cases taken with
  | true => exact sameButFlags_jump h d
  | false => exact h

theorem sameButFlags_setDev (h : SameButFlags s s') (k : Nat) (st : DevState) :
    SameButFlags (s.setDev k st) (s'.setDev k st) := by
  obtain ⟨hacc, htarget, hpc, hram, hdev, hrest⟩ := h
  exact ⟨hacc, htarget, hpc, hram, congrArg (·.set k st) hdev, hrest⟩

theorem sameButFlags_setRam (h : SameButFlags s s') (m : Memory) : SameButFlags (s.setRam m) (s'.setRam m) := by
  obtain ⟨hacc, htarget, hpc, -, hrest⟩ := h
  exact ⟨hacc, htarget, hpc, rfl, hrest⟩

theorem sameButFlags_addressError (h : SameButFlags s s') (a : Word) (n : Nat) (kind : AccessKind) :
    SameButFlags (s.addressError a n kind) (s'.addressError a n kind) := by
  obtain ⟨hacc, htarget, hpc, hram, hdev, hrunning, -, hplatform⟩ := h
  exact ⟨hacc, htarget, hpc, hram, hdev, hrunning, rfl, hplatform⟩

theorem sameButFlags_halt (h : SameButFlags s s') : SameButFlags s.halt s'.halt := by
  obtain ⟨hacc, htarget, hpc, hram, hdev, -, hrest⟩ := h
  exact ⟨hacc, htarget, hpc, hram, hdev, rfl, hrest⟩

theorem sameButFlags_resetCore (h : SameButFlags s s') : SameButFlags s.resetCore s'.resetCore := by
  obtain ⟨-, -, -, hram, hdev, -, hfatal, hplatform⟩ := h
  refine ⟨fun _ => rfl, rfl, ⟨rfl, rfl⟩, hram, ?_, rfl, hfatal, hplatform⟩
  simp only [State.resetCore_dev, hdev, hplatform]

theorem sameAccess_deviceRead {α : Type} (h : SameButFlags s s') (a : Word) (n k : Nat)
    (handler : Device → DevState → Option (α × DevState)) :
    SameAccess SameRead (s.deviceRead a n k handler) (s'.deviceRead a n k handler) := by
  unfold State.deviceRead
  rw [sameButFlags_device? h]
  cases s.device? k with
  | none => exact .error (sameButFlags_addressError h a n _)
  | some p =>
    dsimp only
    cases handler p.1 p.2 with
    | none => exact .error (sameButFlags_addressError h a n _)
    | some q => exact .ok ⟨rfl, sameButFlags_setDev h k q.2⟩

theorem sameAccess_deviceWrite (h : SameButFlags s s') (a : Word) (n k : Nat)
    (handler : Device → DevState → Option DevState) :
    SameAccess SameButFlags (s.deviceWrite a n k handler) (s'.deviceWrite a n k handler) := by
  unfold State.deviceWrite
  rw [sameButFlags_device? h]
  cases s.device? k with
  | none => exact .error (sameButFlags_addressError h a n _)
  | some p =>
    dsimp only
    cases handler p.1 p.2 with
    | none => exact .error (sameButFlags_addressError h a n _)
    | some st => exact .ok (sameButFlags_setDev h k st)

/-- Two branches on one condition. -/
theorem SameAccess.ite {α : Type} {related : α → α → Prop} {c : Prop} [Decidable c] {x x' y y' : Except State α}
    (hx : SameAccess related x x') (hy : SameAccess related y y') :
    SameAccess related (if c then x else y) (if c then x' else y') := by
  split
  · exact hx
  · exact hy

theorem sameAccess_memReadWord (h : SameButFlags s s') (kind : AccessKind) (a : Word) :
    SameAccess SameRead (memReadWord kind a s) (memReadWord kind a s') := by
  have hview := sameButFlags_targetView h
  have ⟨_, _, ⟨hcurrent, _⟩, hram, _, _, _, hplatform⟩ := h
  unfold memReadWord
  rw [sameButFlags_route h, hview, hcurrent, hram, hplatform]
  have hrefused := fun kind' =>
    SameAccess.error (related := SameRead (α := Word)) (sameButFlags_addressError h a 4 kind')
  cases s.route a with
  | pcWindow o => exact .ite (.ok ⟨rfl, h⟩) (hrefused _)
  | cpuWindow o => exact .ite (.ok ⟨rfl, h⟩) (hrefused _)
  | device k o => exact sameAccess_deviceRead h a 4 k _
  | ram => exact .ite (.ok ⟨rfl, h⟩) (hrefused _)

theorem sameAccess_memWriteWord (h : SameButFlags s s') (a v : Word) :
    SameAccess SameButFlags (memWriteWord a v s) (memWriteWord a v s') := by
  have ⟨_, htarget, _, hram, _, _, _, hplatform⟩ := h
  unfold memWriteWord
  rw [sameButFlags_route h, htarget, hram, hplatform]
  have hrefused := fun kind' => SameAccess.error (related := SameButFlags) (sameButFlags_addressError h a 4 kind')
  cases s.route a with
  | pcWindow o => exact .ite (.ok (sameButFlags_jump h v)) (hrefused _)
  | cpuWindow o => exact .ite (.ok (sameButFlags_setReg h s.target _)) (hrefused _)
  | device k o => exact sameAccess_deviceWrite h a 4 k _
  | ram => exact .ite (.ok (sameButFlags_setRam h _)) (hrefused _)

theorem sameOutcome_loadTarget (h : SameButFlags s s') (a : Word) :
    SameOutcome (loadTarget a s) (loadTarget a s') := by
  have haccess := sameAccess_memReadWord h .read a
  unfold loadTarget
  generalize memReadWord .read a s = x, memReadWord .read a s' = x' at haccess
  cases haccess with
  | ok hx =>
    obtain ⟨hvalue, hstate⟩ := hx
    dsimp only
    rw [hvalue]
    exact .next (sameButFlags_setTarget hstate _)
  | error hu => exact .next hu

theorem sameOutcome_storeTarget (h : SameButFlags s s') (a : Word) :
    SameOutcome (storeTarget a s) (storeTarget a s') := by
  have haccess := sameAccess_memWriteWord h a s.targetView
  unfold storeTarget
  rw [sameButFlags_targetView h]
  generalize memWriteWord a s.targetView s = x, memWriteWord a s.targetView s' = x' at haccess
  cases haccess with
  | ok ht => exact .next ht
  | error hu => exact .next hu

theorem sameOutcome_exec (h : SameButFlags s s') {i : Instr} (hjc : ∀ d, i ≠ .jc d) (hjv : ∀ d, i ≠ .jv d) :
    SameOutcome (exec i s) (exec i s') := by
  cases instrClass s i with
  | select r => exact .next (sameButFlags_select h r)
  | copy r =>
    simp only [exec, execCp, sameButFlags_target h, sameButFlags_signedView h]
    exact .next (sameButFlags_setReg h r _)
  | load r =>
    simp only [exec, execLdr, sameButFlags_view h]
    exact sameOutcome_loadTarget h _
  | store ha =>
    rw [exec_of_storeAddress ha, exec_of_storeAddress ((sameButFlags_storeAddress h i).trans ha)]
    exact sameOutcome_storeTarget h _
  | primitive hf =>
    rw [exec_of_targetPrimitive hf, exec_of_targetPrimitive (sameButFlags_signedView h ▸ hf),
      targetPrimitive_ignores_flags hf s.targetReg, targetPrimitive_ignores_flags hf s'.targetReg,
      sameButFlags_targetReg_acc h]
    exact .next (sameButFlags_setTarget h _)
  | jumpRegister r =>
    simp only [exec, execJr, sameButFlags_view h]
    exact .next (sameButFlags_jump h _)
  | jump d => exact .next (sameButFlags_jump h d)
  | test hj =>
    rw [exec_of_jumpTest hj, exec_of_jumpTest ((sameButFlags_jumpTest h hjc hjv).trans hj)]
    exact .next (sameButFlags_jumpIf h _ _)
  | nop => exact .next h
  | reset => exact .next (sameButFlags_resetCore h)
  | halt => exact .next (sameButFlags_halt h)

end

/-! ### Bring-up -/

/-- Bring-up accepts exactly the well-formed platforms (R303). -/
theorem configurationError_eq_none_iff (p : Platform) : configurationError p = none ↔ p.wellFormed = true := by
  simp [configurationError, Platform.wellFormed, ite_eq_iff, and_assoc]

theorem bringUp_eq_ok_iff {p : Platform} {s : State} :
    bringUp p = .ok s ↔ p.wellFormed = true ∧ s = powerOn p := by
  rw [← configurationError_eq_none_iff]
  unfold bringUp
  cases configurationError p <;> simp [eq_comm]

/-- The image, loaded from address 0, ends inside RAM (D24). -/
theorem Platform.image_fits {p : Platform} (h : p.wellFormed = true) : 0 + p.image.length ≤ p.ramSize := by
  simp only [Platform.wellFormed, Bool.and_eq_true] at h
  obtain ⟨-, hfits⟩ := h
  rw [Nat.zero_add]
  exact of_decide_eq_true hfits

theorem powerOn_wellFormed {p : Platform} (h : p.wellFormed = true) : (powerOn p).wellFormed = true := by
  rw [State.wellFormed_iff]
  exact ⟨Memory.wf_load [] 0 p.image rfl (Platform.image_fits h), List.length_map _, h⟩

theorem powerOn_reg (p : Platform) (q : Nibble) : (powerOn p).reg q = clean 0 :=
  State.reg_cleared (powerOn p) rfl q

theorem powerOn_read_image {p : Platform} (h : p.wellFormed = true) {a : Nat} {b : Byte}
    (hb : p.image[a]? = some b) : Memory.read (powerOn p).ram a = b := by
  obtain ⟨ha, rfl⟩ := List.getElem?_eq_some_iff.mp hb
  have hread := Memory.read_load_inside [] 0 p.image rfl (Platform.image_fits h) ha
  rwa [Nat.zero_add] at hread

theorem powerOn_read_beyond_image (p : Platform) {a : Nat} (h : p.image.length ≤ a) :
    Memory.read (powerOn p).ram a = 0 :=
  Memory.read_load_outside [] 0 p.image (.inr (by omega))

end Sys2Proof.Machine

open Sys2Proof Sys2Proof.Machine Sys2Proof.Statement

/-- Settles O49: the broadcast, an interrupt entry and a fetch leave RAM and the number of device states alone, and an
instruction keeps the invariant. -/
theorem stepKeepsWellFormed : Obligations.StepKeepsWellFormed := by
  intro s t hs h
  obtain ⟨-, hdev, -⟩ := s.wellFormed_iff.mp hs
  have hb := (State.broadcast_sameLayout hdev).wellFormed hs
  obtain ⟨-, -, ⟨k, ha, rfl⟩ | ⟨i, u, -, hf, hx⟩ | ⟨-, hf⟩⟩ := step_cases h
  · exact (State.interruptEntry_sameLayout ha).wellFormed hb
  · exact exec_wellFormed ((fetch_ok_sameLayout hf).wellFormed hb) hx
  · exact (fetch_error_sameLayout hf).wellFormed hb

/-- Settles O51: the broadcast keeps the configuration, and so does each way a step can go on. -/
theorem platformNeverChanges : Obligations.PlatformNeverChanges := by
  intro s t h
  obtain ⟨-, -, ⟨k, ha, rfl⟩ | ⟨i, u, -, hf, hx⟩ | ⟨-, hf⟩⟩ := step_cases h
  · exact (State.interruptEntry_sameLayout ha).platform
  · exact (exec_effect hx).platform_eq.trans (fetch_ok_sameLayout hf).platform
  · exact (fetch_error_sameLayout hf).platform

/-- Settles O52: of the effects, only `select` and `reset` write the target pointer. -/
theorem targetWrittenOnlyBySelAndRst : Obligations.TargetWrittenOnlyBySelAndRst :=
  fun _ _ _ h hsel hrst => (exec_effect h).target_eq hsel hrst

/-- Settles O53: a RAM that changed is one that a word was stored into, at the address the instruction computes. -/
theorem onlyStoresWriteRam : Obligations.OnlyStoresWriteRam := by
  intro i s t h
  rcases (exec_effect h).ram_cases with hsame | ⟨a, v, ha, -, hstore⟩
  · exact ⟨fun _ _ => by rw [hsame], fun _ _ _ _ => by rw [hsame]⟩
  · refine ⟨fun hnone => by simp [ha] at hnone, fun a' ha' c hc => ?_⟩
    obtain rfl : a = a' := Option.some.inj (ha.symm.trans ha')
    rw [hstore]
    exact Memory.read_writeWord_outside s.ram a.toNat v hc

/-- Settles O54: of the effects, only `reset` writes `pc.current`. -/
theorem currentIsStableDuringATick : Obligations.CurrentIsStableDuringATick :=
  fun _ _ _ h hrst => (exec_effect h).pcCurrent_eq hrst

/-- Settles O55: the registers written are `$TARGET`, the operand of `copy`, and all by `reset`. -/
theorem otherRegistersAreUnchanged : Obligations.OtherRegistersAreUnchanged :=
  fun _ _ _ _ h hp hcp hrst => (exec_effect h).reg_eq hp hcp hrst

/-- Settles O56: HLT and RST clear the run bit, every other effect keeps it. -/
theorem onlyHltAndRstStopTheClock : Obligations.OnlyHltAndRstStopTheClock := by
  intro i s t h
  by_cases hhlt : i = .hlt
  · subst hhlt
    cases h
    simp
  · by_cases hrst : i = .rst
    · subst hrst
      cases h
      simp
    · simp [(exec_effect h).running_eq hhlt hrst, hhlt, hrst]

/-- Settles O57: what an instruction reads (views, routes, devices, its jump test) agrees in the two states, and each
state operation carries the agreement on. -/
theorem flagsAreReadOnlyByJcAndJv : Obligations.FlagsAreReadOnlyByJcAndJv :=
  fun _ _ _ h hjc hjv => sameOutcome_exec h hjc hjv

/-- Settles O58: bring-up answers `powerOn` of an accepted platform, which is also what power-on reset answers. -/
theorem powerOnValues : Obligations.PowerOnValues := by
  intro p s h
  obtain ⟨hp, rfl⟩ := bringUp_eq_ok_iff.mp h
  refine ⟨powerOn_wellFormed hp, fun q => ?_, rfl, rfl, rfl, fun _ _ => powerOn_read_image hp,
    fun _ => powerOn_read_beyond_image p, fun k => List.getElem?_map, rfl, rfl, rfl, fun u hu => by rw [← hu]; rfl⟩
  rw [powerOn_reg]
  exact ⟨rfl, rfl, rfl⟩

/-- Settles O50: the reset state is the reference platform's after power-on. -/
theorem resetIsWellFormed : Obligations.ResetIsWellFormed :=
  powerOn_wellFormed (p := Platform.reference) (by decide)
end

section
/-! PROOFS. The router and the accesses it serves (spec/20_memory.md). First one equation per access and route, then
what the words "only this changed" come to for the state operations that an access makes, then ranges. -/

namespace Sys2Proof.Machine
open Sys2Proof.Statement

/-! ### Each access on each route -/

section
variable {s : State} {a : Word} {k o : Nat}

theorem memReadByte_of_pcWindow (h : s.route a = .pcWindow o) (kind : AccessKind) :
    memReadByte kind a s = .ok (byteOfWord s.pcCurrent o, s) := by
  simp only [memReadByte, h]

theorem memReadByte_of_cpuWindow (h : s.route a = .cpuWindow o) (kind : AccessKind) :
    memReadByte kind a s = .ok (byteOfWord s.targetView o, s) := by
  simp only [memReadByte, h]

theorem memReadByte_of_device (h : s.route a = .device k o) (kind : AccessKind) :
    memReadByte kind a s = s.deviceRead a 1 k fun d st => d.readByte st o := by
  simp only [memReadByte, h]

theorem memReadByte_of_ram (h : s.route a = .ram) (kind : AccessKind) :
    memReadByte kind a s = if a.toNat < s.platform.ramSize then .ok (Memory.read s.ram a.toNat, s)
      else .error (s.addressError a 1 kind) := by
  simp only [memReadByte, h]

theorem memReadWord_of_pcWindow (h : s.route a = .pcWindow o) (kind : AccessKind) :
    memReadWord kind a s = if o = 0 then .ok (s.pcCurrent, s) else .error (s.addressError a 4 .deviceFault) := by
  simp only [memReadWord, h]

theorem memReadWord_of_cpuWindow (h : s.route a = .cpuWindow o) (kind : AccessKind) :
    memReadWord kind a s = if o = 0 then .ok (s.targetView, s) else .error (s.addressError a 4 .deviceFault) := by
  simp only [memReadWord, h]

theorem memReadWord_of_device (h : s.route a = .device k o) (kind : AccessKind) :
    memReadWord kind a s = s.deviceRead a 4 k fun d st => d.readInteger st o := by
  simp only [memReadWord, h]

theorem memReadWord_of_ram (h : s.route a = .ram) (kind : AccessKind) :
    memReadWord kind a s = if a.toNat + 3 < s.platform.ramSize then .ok (Memory.readWord s.ram a.toNat, s)
      else .error (s.addressError a 4 kind) := by
  simp only [memReadWord, h]

theorem memWriteByte_of_pcWindow (h : s.route a = .pcWindow o) (b : Byte) :
    memWriteByte a b s = .ok (s.jump (replaceByte s.pcNext o b)) := by
  simp only [memWriteByte, h]

theorem memWriteByte_of_cpuWindow (h : s.route a = .cpuWindow o) (b : Byte) :
    memWriteByte a b s = .ok (s.setValue s.target (replaceByte s.targetView o b).toInt) := by
  simp only [memWriteByte, h]

theorem memWriteByte_of_device (h : s.route a = .device k o) (b : Byte) :
    memWriteByte a b s = s.deviceWrite a 1 k fun d st => d.writeByte st o b := by
  simp only [memWriteByte, h]

theorem memWriteByte_of_ram (h : s.route a = .ram) (b : Byte) :
    memWriteByte a b s = if a.toNat < s.platform.ramSize then .ok (s.setRam (Memory.write s.ram a.toNat b))
      else .error (s.addressError a 1 .write) := by
  simp only [memWriteByte, h]

theorem memWriteWord_of_pcWindow (h : s.route a = .pcWindow o) (v : Word) :
    memWriteWord a v s = if o = 0 then .ok (s.jump v) else .error (s.addressError a 4 .deviceFault) := by
  simp only [memWriteWord, h]

theorem memWriteWord_of_cpuWindow (h : s.route a = .cpuWindow o) (v : Word) :
    memWriteWord a v s = if o = 0 then .ok (s.setValue s.target v.toInt)
      else .error (s.addressError a 4 .deviceFault) := by
  simp only [memWriteWord, h]

theorem memWriteWord_of_device (h : s.route a = .device k o) (v : Word) :
    memWriteWord a v s = s.deviceWrite a 4 k fun d st => d.writeInteger st o v := by
  simp only [memWriteWord, h]

theorem memWriteWord_of_ram (h : s.route a = .ram) (v : Word) :
    memWriteWord a v s = if a.toNat + 3 < s.platform.ramSize then .ok (s.setRam (Memory.writeWord s.ram a.toNat v))
      else .error (s.addressError a 4 .write) := by
  simp only [memWriteWord, h]

/-- Routes depend on the configuration alone (R63). -/
@[simp] theorem State.route_setRam (m : Memory) : (s.setRam m).route a = s.route a := rfl

/-! ### A call of a device that is there -/

theorem State.deviceRead_eq {α : Type} {d : Device} {st : DevState} (h : s.device? k = some (d, st)) (n : Nat)
    (handler : Device → DevState → Option (α × DevState)) :
    s.deviceRead a n k handler =
      (handler d st).elim (.error (s.addressError a n .deviceFault)) fun x => .ok (x.1, s.setDev k x.2) := by
  simp only [State.deviceRead, h]
  cases handler d st <;> rfl

theorem State.deviceWrite_eq {d : Device} {st : DevState} (h : s.device? k = some (d, st)) (n : Nat)
    (handler : Device → DevState → Option DevState) :
    s.deviceWrite a n k handler =
      (handler d st).elim (.error (s.addressError a n .deviceFault)) fun st' => .ok (s.setDev k st') := by
  simp only [State.deviceWrite, h]
  cases handler d st <;> rfl

theorem State.deviceRead_ok {α : Type} {n : Nat} {handler : Device → DevState → Option (α × DevState)} {x : α}
    {t : State} (h : s.deviceRead a n k handler = .ok (x, t)) : ∃ st, t = s.setDev k st := by
  rcases State.deviceRead_cases s a n k handler with ⟨_, _, _, st, _, _, e⟩ | e <;> rw [e] at h <;> cases h
  exact ⟨st, rfl⟩

theorem State.deviceWrite_ok {n : Nat} {handler : Device → DevState → Option DevState} {t : State}
    (h : s.deviceWrite a n k handler = .ok t) : ∃ st, t = s.setDev k st := by
  rcases State.deviceWrite_cases s a n k handler with ⟨_, _, st, _, _, e⟩ | e <;> rw [e] at h <;> cases h
  exact ⟨st, rfl⟩

end

/-! ### The bytes of a word, in the words of the statements -/

theorem wordByte_eq_byteOfWord (v : Word) (j : Nat) : wordByte v j = byteOfWord v j := by
  apply BitVec.eq_of_getLsbD_eq
  intro i hi
  simp [wordByte, byteOfWord, hi]

theorem replacesByte_replaceByte (v : Word) (b : Byte) {k : Nat} (hk : k < 4) :
    ReplacesByte v k b (replaceByte v k b) := by
  simp only [ReplacesByte, wordByte_eq_byteOfWord]
  exact ⟨by rw [byteOfWord_replaceByte v b hk hk, if_pos rfl],
    fun j hj hne => by rw [byteOfWord_replaceByte v b hk hj, if_neg hne]⟩

theorem Memory.byteOfWord_readWord (m : Memory) (a : Nat) {j : Nat} (hj : j < 4) :
    byteOfWord (Memory.readWord m a) j = Memory.read m (a + j) := by
  apply BitVec.eq_of_getLsbD_eq
  intro i hi
  simp only [Memory.readWord, wordOfBytes, byteOfWord, BitVec.getLsbD_append, BitVec.getLsbD_extractLsb']
  interval_cases j <;> grind

theorem Memory.readWord_writeWord {size : Nat} (m : Memory) (a : Nat) (v : Word) (hw : Memory.wf size m = true)
    (ha : a + 4 ≤ size) : Memory.readWord (Memory.writeWord m a v) a = v := by
  have hread {j : Nat} (hj : j < 4) := Memory.read_writeWord_inside m a v hw ha hj
  have h0 : Memory.read (Memory.writeWord m a v) a = byteOfWord v 0 := hread (by decide : 0 < 4)
  rw [Memory.readWord, h0, hread (by decide), hread (by decide), hread (by decide), wordOfBytes_byteOfWord]

/-! ### What the state operations of an access leave unchanged -/

theorem onlyNext_jump (s : State) (a : Word) : OnlyNext s (s.jump a) a :=
  ⟨rfl, rfl, fun _ => rfl, rfl, fun _ => rfl, rfl, rfl, rfl, rfl⟩

theorem onlyRegister_setValue (s : State) (q : Nibble) (v : Word) :
    OnlyRegister s (s.setValue q v.toInt) q (clean v) := by
  refine ⟨?_, fun p hp => State.reg_setReg_ne s q p _ hp, rfl, ⟨rfl, rfl⟩, fun _ => rfl, rfl, rfl, rfl, rfl⟩
  rw [State.setValue_eq_setReg, State.reg_setReg_self, Reg.set_toInt, clean]

theorem onlyWordStored_setRam {s : State} {a : Nat} (v : Word) (hw : Memory.wf s.platform.ramSize s.ram = true)
    (ha : a + 3 < s.platform.ramSize) : OnlyWordStored s (s.setRam (Memory.writeWord s.ram a v)) a v := by
  refine ⟨fun j hj => ?_, fun b hb => Memory.read_writeWord_outside s.ram a v hb, fun _ => rfl, rfl, ⟨rfl, rfl⟩,
    rfl, rfl, rfl, rfl⟩
  rw [wordByte_eq_byteOfWord]
  exact Memory.read_writeWord_inside s.ram a v hw (by omega) hj

/-! ### Ranges that share an address -/

theorem overlap_of_shareAddress {q r : Range} (h : shareAddress q r) : Range.overlap q r = true := by
  obtain ⟨a, hq, hr⟩ := h
  simp only [Range.overlap, Bool.and_eq_true, decide_eq_true_eq]
  omega

/-- Two ranges with an address each share one when neither ends before the other begins: the later of their first
addresses (R73). -/
theorem shareAddress_iff {q r : Range} (hq : 1 ≤ q.2) (hr : 1 ≤ r.2) :
    shareAddress q r ↔ q.1 < r.1 + r.2 ∧ r.1 < q.1 + q.2 := by
  constructor
  · rintro ⟨a, hqa, hra⟩
    omega
  · intro h
    exact ⟨max q.1 r.1, by omega, by omega⟩

theorem overlap_iff_shareAddress {q r : Range} (hq : 1 ≤ q.2) (hr : 1 ≤ r.2) :
    Range.overlap q r = true ↔ shareAddress q r := by
  simp [Range.overlap, shareAddress_iff hq hr]

theorem rangesDisjoint_iff_pairwise (rs : List Range) :
    rangesDisjoint rs = true ↔ rs.Pairwise fun q r => ¬ Range.overlap q r = true := by
  induction rs with
  | nil => simp [rangesDisjoint]
  | cons q rs ih => simp [rangesDisjoint, ih]

theorem pairwise_not_shareAddress {rs : List Range} (h : rangesDisjoint rs = true) :
    rs.Pairwise fun q r => ¬ shareAddress q r :=
  ((rangesDisjoint_iff_pairwise rs).mp h).imp fun hne hshare => hne (overlap_of_shareAddress hshare)

/-- The test of bring-up is R73's condition, on ranges that are not empty. -/
theorem rangesDisjoint_iff {rs : List Range} (h : ∀ q ∈ rs, 1 ≤ q.2) :
    rangesDisjoint rs = true ↔ rs.Pairwise fun q r => ¬ shareAddress q r := by
  refine ⟨pairwise_not_shareAddress, fun hrs => (rangesDisjoint_iff_pairwise rs).mpr ?_⟩
  exact hrs.imp_of_mem fun hq hr hne hover => hne ((overlap_iff_shareAddress (h _ hq) (h _ hr)).mp hover)

/-- On a platform that is otherwise in order, bring-up answers by the test of its ranges (R73, R303). -/
theorem bringUp_of_otherwise_in_order {p : Platform} (hram : 1 ≤ p.ramSize) (hfits : p.ramSize ≤ 2 ^ 32)
    (himage : p.image.length ≤ p.ramSize) (hranges : ∀ q ∈ p.ranges, 1 ≤ q.2 ∧ q.1 + q.2 ≤ 2 ^ 32) :
    bringUp p = if rangesDisjoint p.ranges = true then .ok (powerOn p) else .error .overlappingRanges := by
  have hlegal : p.ranges.all Range.legal = true := by
    simpa [Range.legal] using hranges
  have hhas : p.hasRam = true := by simpa [Platform.hasRam] using hram
  have hfit : p.ramFits = true := decide_eq_true hfits
  have himg : p.imageFits = true := decide_eq_true himage
  cases hd : rangesDisjoint p.ranges <;> simp [bringUp, configurationError, hhas, hfit, himg, hlegal, hd]

end Sys2Proof.Machine

open Sys2Proof Sys2Proof.Machine Sys2Proof.Statement

/-- Settles O27: the RAM equation of each access, in and out of range, and the frame of the store. -/
theorem ramAccesses : Obligations.RamAccesses := by
  intro s a b v hroute hw
  rw [memReadByte_of_ram hroute, memWriteByte_of_ram hroute, memReadWord_of_ram hroute, memWriteWord_of_ram hroute]
  refine ⟨fun hin => ?_, fun hout => ?_, fun hin => ?_, fun hout => ?_⟩
  · rw [if_pos hin, if_pos hin]
    exact ⟨rfl, _, rfl, Memory.read_write_self s.ram hw a.toNat b, fun _ hc => Memory.read_write_ne s.ram b hc,
      fun _ => rfl, rfl, ⟨rfl, rfl⟩, rfl, rfl, rfl, rfl⟩
  · rw [if_neg (by omega), if_neg (by omega)]
    exact ⟨rfl, rfl⟩
  · rw [if_pos hin, if_pos hin]
    exact ⟨rfl, _, rfl, onlyWordStored_setRam v hw hin⟩
  · rw [if_neg (by omega), if_neg (by omega)]
    exact ⟨rfl, rfl⟩

/-- Settles O28: a write that succeeds is a store inside RAM, which leaves the routes as they were. -/
theorem wordWriteThenReadIsBigEndian : Obligations.WordWriteThenReadIsBigEndian := by
  intro s t a v hw hroute hwrite
  rw [memWriteWord_of_ram hroute] at hwrite
  split at hwrite <;> cases hwrite
  next hin =>
  refine ⟨?_, fun j c hj hc hroutec => ?_⟩
  · rw [memReadWord_of_ram ((State.route_setRam _).trans hroute), State.setRam_platform, if_pos hin, State.setRam_ram,
      Memory.readWord_writeWord s.ram a.toNat v hw (by omega)]
  · obtain ⟨hbytes, -⟩ := onlyWordStored_setRam v hw hin
    rw [memReadByte_of_ram ((State.route_setRam _).trans hroutec), State.setRam_platform, if_pos (by omega), hc,
      hbytes j hj]

/-- Settles O29: the route of the first address alone decides, and the RAM routes touch no device. -/
theorem ramAccessRunsUnderDevices : Obligations.RamAccessRunsUnderDevices := by
  intro s a v j hw hroute hin hj _
  rw [memWriteWord_of_ram hroute, memReadWord_of_ram hroute, if_pos hin, if_pos hin]
  obtain ⟨hbytes, -, hregs, -, hpc, hdev, -⟩ := onlyWordStored_setRam v hw hin
  refine ⟨⟨_, rfl, hdev, hbytes j hj, hregs, hpc⟩, _, rfl, ?_⟩
  rw [wordByte_eq_byteOfWord, Memory.byteOfWord_readWord s.ram a.toNat hj]

/-- Settles O30: a device answers by one handler, and each window by its equations. -/
theorem deviceAccessIsOneCall : Obligations.DeviceAccessIsOneCall := by
  refine ⟨fun s kind a k o d st b v hroute hd => ?_, fun s kind a o b v hroute => ?_,
    fun s kind a o b v hroute => ?_⟩
  · rw [memReadByte_of_device hroute, memReadWord_of_device hroute, memWriteByte_of_device hroute,
      memWriteWord_of_device hroute]
    simp only [State.deviceRead_eq hd, State.deviceWrite_eq hd]
    refine ⟨?_, ?_, ?_, ?_⟩
    · cases d.readByte st o <;> rfl
    · cases d.readInteger st o <;> rfl
    · cases d.writeByte st o b <;> rfl
    · cases d.writeInteger st o v <;> rfl
  · rw [memReadByte_of_pcWindow hroute, memReadWord_of_pcWindow hroute, memWriteByte_of_pcWindow hroute,
      memWriteWord_of_pcWindow hroute, wordByte_eq_byteOfWord]
    refine ⟨rfl, ⟨_, _, rfl, onlyNext_jump s _, replacesByte_replaceByte _ b (State.route_pcWindow_lt hroute)⟩,
      fun hzero => ?_, fun hne => ?_⟩
    · rw [if_pos hzero, if_pos hzero]
      exact ⟨rfl, _, rfl, onlyNext_jump s v⟩
    · rw [if_neg hne, if_neg hne]
      exact ⟨rfl, rfl⟩
  · rw [memReadByte_of_cpuWindow hroute, memReadWord_of_cpuWindow hroute, memWriteByte_of_cpuWindow hroute,
      memWriteWord_of_cpuWindow hroute, wordByte_eq_byteOfWord]
    refine ⟨rfl, ⟨_, _, rfl, onlyRegister_setValue s s.target _,
      replacesByte_replaceByte _ b (State.route_cpuWindow_lt hroute)⟩, fun hzero => ?_, fun hne => ?_⟩
    · rw [if_pos hzero, if_pos hzero]
      exact ⟨rfl, _, rfl, onlyRegister_setValue s s.target v⟩
    · rw [if_neg hne, if_neg hne]
      exact ⟨rfl, rfl⟩

/-- Settles O31: whichever of the four accesses it was, it replaced the state of device `k`. -/
theorem devicesTouchOnlyThemselves : Obligations.DevicesTouchOnlyThemselves := by
  intro s t kind a v x b y k o hroute haccess
  rw [memReadByte_of_device hroute, memReadWord_of_device hroute, memWriteByte_of_device hroute,
    memWriteWord_of_device hroute] at haccess
  have hdev : ∃ st, t = s.setDev k st := by
    rcases haccess with h | h | h | h
    · exact State.deviceRead_ok h
    · exact State.deviceRead_ok h
    · exact State.deviceWrite_ok h
    · exact State.deviceWrite_ok h
  obtain ⟨st, rfl⟩ := hdev
  exact ⟨fun _ => rfl, rfl, ⟨rfl, rfl⟩, fun _ => rfl, rfl, rfl, rfl, List.length_set,
    fun j hj => List.getElem?_set_ne hj.symm⟩

/-- Settles O59: ranges that share an address fail the test of bring-up, and on ranges that are not empty the test is
R73's condition. -/
theorem overlappingRangesAreRefused : Obligations.OverlappingRangesAreRefused := by
  refine ⟨fun p hshare => ?_, fun p hram hfits himage hranges => ?_, fun q r hq hr => shareAddress_iff hq hr⟩
  · cases hup : bringUp p with
    | error e => exact ⟨e, rfl⟩
    | ok s =>
      obtain ⟨hp, -⟩ := bringUp_eq_ok_iff.mp hup
      simp only [Platform.wellFormed, Bool.and_eq_true] at hp
      obtain ⟨⟨-, hdisjoint⟩, -⟩ := hp
      exact absurd (pairwise_not_shareAddress hdisjoint) hshare
  · have htest := rangesDisjoint_iff fun q hq => (hranges q hq).1
    rw [bringUp_of_otherwise_in_order hram hfits himage hranges, ← htest]
    by_cases hdisjoint : rangesDisjoint p.ranges = true
    · simp [hdisjoint]
    · simp [hdisjoint]

/-- Settles O32: `readVector` answers the vector beside a state whose pending flag it has cleared. -/
theorem vectorReadClearsPending : Obligations.VectorReadClearsPending := by
  intro d st st' vec h
  obtain ⟨_, -, hcleared⟩ := Option.map_eq_some_iff.mp h
  cases hcleared
  rfl
end

section
/-! PROOFS. Encoding (spec/30_encoding.md). The lookup of R107 in one equation (`lookupOpcode_eq_lookupBase`); each row
of the catalogue against the encoder (`RowEncodes`), which is what the decoder inverts; then what a step can record as
a fatal error. -/

namespace Sys2Proof

/-! ### The catalogue lookup -/

/-- The base bytes of the catalogue. -/
def catalogueBases : List Byte := catalogue.map Prod.fst

/-- The base byte of the row that opcode byte `b` belongs to (R107, R108): the family of a nibble-operand byte, and the
byte itself from 0xF0 on. -/
def baseOf (b : Byte) : Byte := if b < 0xF0#8 then b &&& 0xF0#8 else b

theorem baseOf_mem_catalogueBases : ∀ b, baseOf b ∈ catalogueBases := by decide +kernel

theorem baseOf_of_mem_catalogueBases : ∀ b ∈ catalogueBases, baseOf b = b := by decide +kernel

theorem baseOf_of_not_mem_catalogueBases {b : Byte} (h : b ∉ catalogueBases) : baseOf b = b &&& 0xF0#8 := by
  refine if_pos (Decidable.byContradiction fun hge => h ?_)
  have hself : baseOf b = b := if_neg hge
  exact hself ▸ baseOf_mem_catalogueBases b

theorem baseOf_family : ∀ family n : Nibble, family ≠ 15#4 → baseOf (family ++ n) = family ++ 0#4 := by decide +kernel

/-- An opcode byte of a family is the family with the byte's own nibble as operand (R101, R105). -/
theorem family_append_operandNibble : ∀ family : Nibble, family ≠ 15#4 → ∀ b : Byte, baseOf b = family ++ 0#4 →
    family ++ operandNibble b = b ∧ isWideOpcode b = false := by decide +kernel

/-- From 0xF0 on every row has one opcode byte (R102, R103). -/
theorem eq_baseOf_of_le : ∀ b : Byte, 0xF0#8 ≤ baseOf b → b = baseOf b := by decide +kernel

theorem mem_of_lookupBase {b : Byte} {form : Form} {rows : List (Byte × Form)} (h : lookupBase b rows = some form) :
    (b, form) ∈ rows := by
  induction rows with
  | nil => cases h
  | cons row rows ih =>
    rw [lookupBase] at h
    split at h
    · next hbase => cases hbase; cases h; exact List.mem_cons_self
    · exact List.mem_cons_of_mem _ (ih h)

theorem lookupBase_eq_none_iff {b : Byte} {rows : List (Byte × Form)} :
    lookupBase b rows = none ↔ b ∉ rows.map Prod.fst := by
  induction rows with
  | nil => simp [lookupBase]
  | cons row rows ih =>
    by_cases hbase : row.1 = b
    · simp [lookupBase, hbase]
    · simp [lookupBase, hbase, ih, Ne.symm hbase]

/-- The two lookups of R107 are one, of the row's base byte. -/
theorem lookupOpcode_eq_lookupBase (b : Byte) : lookupOpcode b = lookupBase (baseOf b) catalogue := by
  unfold lookupOpcode
  cases hexact : lookupBase b catalogue with
  | some form =>
    have hmem : b ∈ catalogueBases := List.mem_map_of_mem (mem_of_lookupBase hexact)
    rw [baseOf_of_mem_catalogueBases b hmem, hexact]
  | none => rw [baseOf_of_not_mem_catalogueBases (lookupBase_eq_none_iff.mp hexact)]

/-- Every opcode byte has a row (R110). -/
theorem exists_lookupOpcode (b : Byte) : ∃ form, lookupOpcode b = some form := by
  rw [← Option.ne_none_iff_exists', lookupOpcode_eq_lookupBase]
  exact fun hnone => lookupBase_eq_none_iff.mp hnone (baseOf_mem_catalogueBases b)

/-! ### Encoding, then decoding -/

theorem decode_encodeNibble {family : Nibble} {make : Nibble → Instr} (hfamily : family ≠ 15#4)
    (hrow : lookupBase (family ++ 0#4) catalogue = some (.nibble make)) (n : Nibble) (rest : List Byte) :
    decode (encodeNibble family n ++ rest) = .ok (make n, rest) := by
  have hlookup : lookupOpcode (family ++ n) = some (.nibble make) := by
    rw [lookupOpcode_eq_lookupBase, baseOf_family family n hfamily, hrow]
  have hoperand : operandNibble (family ++ n) = n := BitVec.setWidth_append_eq_right
  simp [encodeNibble, decode, hlookup, hoperand]

theorem decode_encodeWide {opcode : Byte} {make : Word → Instr} (hrow : lookupOpcode opcode = some (.wide make))
    (d : Word) (rest : List Byte) : decode (encodeWide opcode d ++ rest) = .ok (make d, rest) := by
  simp [encodeWide, decode, hrow, Machine.wordOfBytes_byteOfWord]

/-- Decoding inverts encoding, format by format: N, W and Z. -/
theorem decode_encode (i : Instr) (rest : List Byte) : decode (encode i ++ rest) = .ok (i, rest) := by
  cases i with
  | sel n | ldr n | str n | jr n | cp n | and n | or n | xor n | add n | sub n | mul n | div n | shl n | shr n
  | ssr n => exact decode_encodeNibble (by decide) rfl n rest
  | ldn d | stn d | j d | jz d | jn d | jc d | jv d => exact decode_encodeWide rfl d rest
  | com | neg | inc | dec | clr | uno | nop | rst | hlt => rfl

/-! ### Decoding, then encoding -/

/-- The encoder agrees with the row of base byte `base` and form `form` (R101 to R103). -/
inductive RowEncodes (base : Byte) : Form → Prop where
  | nibble {make : Nibble → Instr} {family : Nibble} (hencode : ∀ n, encode (make n) = encodeNibble family n)
      (hbase : base = family ++ 0#4) (hfamily : family ≠ 15#4) : RowEncodes base (.nibble make)
  | wide {make : Word → Instr} (hencode : ∀ d, encode (make d) = encodeWide base d)
      (hwide : isWideOpcode base = true) (hbase : 0xF0#8 ≤ base) : RowEncodes base (.wide make)
  | zero {i : Instr} (hencode : encode i = [base]) (hnarrow : isWideOpcode base = false) (hbase : 0xF0#8 ≤ base) :
      RowEncodes base (.zero i)

/-- The 15 families, the 7 wide rows and the 9 rows without operand of the catalogue (R108). -/
theorem catalogue_rowEncodes : ∀ row ∈ catalogue, RowEncodes row.1 row.2 := by
  unfold catalogue
  iterate 15 refine List.forall_mem_cons.mpr ⟨.nibble (fun _ => rfl) rfl (by decide), ?_⟩
  iterate 7 refine List.forall_mem_cons.mpr ⟨.wide (fun _ => rfl) rfl (by decide), ?_⟩
  iterate 9 refine List.forall_mem_cons.mpr ⟨.zero rfl rfl (by decide), ?_⟩
  exact List.forall_mem_nil _

theorem lookupOpcode_rowEncodes {b : Byte} {form : Form} (h : lookupOpcode b = some form) :
    RowEncodes (baseOf b) form := by
  rw [lookupOpcode_eq_lookupBase] at h
  exact catalogue_rowEncodes _ (mem_of_lookupBase h)

/-- The bytes of a word that four bytes make (R61). -/
theorem encodeWide_wordOfBytes (opcode b0 b1 b2 b3 : Byte) :
    encodeWide opcode (wordOfBytes b0 b1 b2 b3) = [opcode, b0, b1, b2, b3] := by
  simp only [encodeWide, List.cons.injEq, and_true, true_and]
  refine ⟨?_, ?_, ?_, ?_⟩ <;> refine BitVec.eq_of_getLsbD_eq fun i hi => ?_ <;>
    simp only [byteOfWord, wordOfBytes, BitVec.getLsbD_extractLsb', BitVec.getLsbD_append] <;> grind

/-- Inversion of `decode`: the opcode byte, its operand bytes, as many as the byte asks for, and what was left over;
the encoder makes the same bytes of the answer. -/
theorem decode_ok {bytes rest : List Byte} {i : Instr} (h : decode bytes = .ok (i, rest)) :
    ∃ b operand, encode i = b :: operand ∧ bytes = b :: operand ++ rest ∧
      operand.length = if isWideOpcode b then 4 else 0 := by
  unfold decode at h
  split at h
  · cases h
  next b tail =>
  split at h
  · cases h
  · next make hlookup =>
    cases h
    cases lookupOpcode_rowEncodes hlookup with
    | nibble hencode hbase hfamily =>
      obtain ⟨hbyte, hnarrow⟩ := family_append_operandNibble _ hfamily b hbase
      exact ⟨b, [], by rw [hencode, encodeNibble, hbyte], rfl, by simp [hnarrow]⟩
  · next j hlookup =>
    cases h
    cases lookupOpcode_rowEncodes hlookup with
    | zero hencode hnarrow hbase =>
      rw [← eq_baseOf_of_le b hbase] at hencode hnarrow
      exact ⟨b, [], hencode, rfl, by simp [hnarrow]⟩
  · next make hlookup =>
    split at h
    · next b0 b1 b2 b3 tail =>
      cases h
      cases lookupOpcode_rowEncodes hlookup with
      | wide hencode hwide hbase =>
        rw [← eq_baseOf_of_le b hbase] at hencode hwide
        exact ⟨b, [b0, b1, b2, b3], by rw [hencode, encodeWide_wordOfBytes], rfl, by simp [hwide]⟩
    · cases h

/-- Four bytes after the opcode byte are enough to decode (R104, R110). -/
theorem exists_decode (b b0 b1 b2 b3 : Byte) : ∃ i rest, decode [b, b0, b1, b2, b3] = .ok (i, rest) := by
  obtain ⟨form, hlookup⟩ := exists_lookupOpcode b
  cases form with
  | nibble make => exact ⟨make (operandNibble b), [b0, b1, b2, b3], by simp [decode, hlookup]⟩
  | zero i => exact ⟨i, [b0, b1, b2, b3], by simp [decode, hlookup]⟩
  | wide make => exact ⟨make (wordOfBytes b0 b1 b2 b3), [], by simp [decode, hlookup]⟩

end Sys2Proof

namespace Sys2Proof.Machine

/-! ### The fatal errors that a step records -/

/-- An AddressError is recorded (R262). -/
def State.HasAddressError (s : State) : Prop := ∃ a width kind, s.fatal = some (.addressError a width kind)

theorem State.hasAddressError_addressError (s : State) (a : Word) (width : Nat) (kind : AccessKind) :
    (s.addressError a width kind).HasAddressError :=
  ⟨a, width, kind, rfl⟩

theorem memReadByte_ok_fatal {kind : AccessKind} {a : Word} {s t : State} {b : Byte}
    (h : memReadByte kind a s = .ok (b, t)) : t.fatal = s.fatal := by
  rcases memReadByte_ok h with rfl | ⟨k, st, rfl⟩ <;> rfl

theorem memReadWord_ok_fatal {kind : AccessKind} {a : Word} {s t : State} {v : Word}
    (h : memReadWord kind a s = .ok (v, t)) : t.fatal = s.fatal := by
  rcases memReadWord_ok h with rfl | ⟨k, st, rfl⟩ <;> rfl

theorem fetch_ok_fatal {s t : State} {i : Instr} (h : fetch s = .ok (i, t)) : t.fatal = s.fatal := by
  rcases fetch_cases s with ⟨_, _, _, hb, -, e⟩ | ⟨_, _, _, _, _, hb, -, hd, e⟩ | ⟨_, e⟩ | ⟨_, _, _, -, e⟩ <;>
    rw [e] at h <;> cases h
  · exact memReadByte_ok_fatal hb
  · exact (memReadWord_ok_fatal hd).trans (memReadByte_ok_fatal hb)

/-- Every opcode byte has a row, so what a fetch that raises has recorded is an AddressError (R110, R140). -/
theorem fetch_error_hasAddressError {s t : State} (h : fetch s = .error t) : t.HasAddressError := by
  rcases fetch_cases s with ⟨_, _, _, -, -, e⟩ | ⟨_, _, _, _, _, -, -, -, e⟩ | ⟨_, e⟩ | ⟨_, _, _, -, e⟩ <;>
    rw [e] at h <;> cases h
  · exact State.hasAddressError_addressError s _ _ _
  · exact State.hasAddressError_addressError _ _ _ _

theorem Effect.fatal_cases {s t : State} {i : Instr} (h : Effect s i t) : t.fatal = s.fatal ∨ t.HasAddressError := by
  cases h with
  | error _ a n kind => exact .inr (State.hasAddressError_addressError s a n kind)
  | _ => exact .inl rfl

theorem State.interruptEntry_fatal {s : State} {k : Nat} (h : s.arbitrate = some k) :
    (s.interruptEntry k).fatal = s.fatal := by
  obtain ⟨d, st, vec, inner, hd, -, hv⟩ := State.sourcePending_cases (State.arbitrate_some h)
  rw [State.interruptEntry_eq hd hv]
  rfl

/-- A step leaves no fatal error, or an AddressError (R261, R262). -/
theorem step_fatal {s t : State} (h : step s = .next t) : t.fatal = none ∨ t.HasAddressError := by
  obtain ⟨-, hnone, ⟨k, ha, rfl⟩ | ⟨i, u, -, hf, hx⟩ | ⟨-, hf⟩⟩ := step_cases h
  · exact .inl ((State.interruptEntry_fatal ha).trans hnone)
  · have hu : u.fatal = none := (fetch_ok_fatal hf).trans hnone
    rw [← hu]
    exact (exec_effect hx).fatal_cases
  · exact .inr (fetch_error_hasAddressError hf)

end Sys2Proof.Machine

open Sys2Proof Sys2Proof.Machine

/-- Settles O44: every instruction is well formed, and the round trip is made format by format. -/
theorem decodeEncodeRoundTrip : Obligations.DecodeEncodeRoundTrip :=
  fun i rest _ => decode_encode i rest

/-- Settles O45: what was decoded is an opcode byte and its operand, which the encoder gives back. -/
theorem encodeDecodeRoundTrip : Obligations.EncodeDecodeRoundTrip := by
  intro bytes i rest h
  obtain ⟨b, operand, hencode, hbytes, -⟩ := decode_ok h
  rw [hencode, hbytes]

/-- Settles O46: an encoding decodes, and the decoder reads as many operand bytes as the opcode byte asks for. -/
theorem opcodeByteGivesTheLength : Obligations.OpcodeByteGivesTheLength := by
  intro i
  obtain ⟨b, operand, hencode, -, hlength⟩ := decode_ok (decode_encode i [])
  exact ⟨b, operand, hencode, by simpa [isWideOpcode] using hlength⟩

/-- Settles O47: every opcode byte has a row, and a step that records an error records an AddressError. -/
theorem everyOpcodeByteDecodes : Obligations.EveryOpcodeByteDecodes := by
  refine ⟨exists_decode, fun s t a b h hdecode => ?_⟩
  rcases step_fatal h with hnone | ⟨_, _, _, haddress⟩
  · cases hnone.symm.trans hdecode
  · cases haddress.symm.trans hdecode

/-- Settles O48: each word is the encoding of its instruction. -/
theorem specWordsDecode : Obligations.SpecWordsDecode :=
  ⟨decode_encode (.cp 3) [], decode_encode (.add 15) [], decode_encode (.shl 15) [], decode_encode (.jr 15) [],
    decode_encode (.ldn 5) [], decode_encode (.jv 0x12345678) [], decode_encode .com [], decode_encode .hlt []⟩
end

section
/-! PROOFS. The tick (spec/40_tick_fetch_decode.md). First that every tick ends in a next state; then fetch against the
decoder, for bytes from anywhere and for bytes of plain RAM; then a step on the code at the next fetch address
(`step_of_codeAt`), to which the statements about instructions in RAM come down. -/

namespace Sys2Proof.Machine
open Sys2Proof.Statement

/-! ### Every tick ends in a next state -/

theorem exec_completes (i : Instr) (s : State) : ∃ t, exec i s = .next t := by
  cases instrClass s i with
  | load r => rcases loadTarget_cases (s.view r) s with ⟨_, _, -, e⟩ | ⟨_, e⟩ <;> exact ⟨_, e⟩
  | store ha =>
    rw [exec_of_storeAddress ha]
    rcases storeTarget_cases _ s with ⟨_, -, e⟩ | ⟨_, e⟩ <;> exact ⟨_, e⟩
  | primitive hf => exact ⟨_, exec_of_targetPrimitive hf⟩
  | test hj => exact ⟨_, exec_of_jumpTest hj⟩
  | select _ | copy _ | jumpRegister _ | jump _ | nop | reset | halt => exact ⟨_, rfl⟩

theorem afterBroadcast_completes (s : State) : ∃ t, afterBroadcast s = .next t := by
  unfold afterBroadcast
  cases s.arbitrate with
  | some k => exact ⟨_, rfl⟩
  | none =>
    cases fetch s with
    | error t => exact ⟨t, rfl⟩
    | ok p => exact exec_completes p.1 p.2

theorem step_of_running {s : State} (hrun : s.running = true) (hfatal : s.fatal = none) :
    step s = afterBroadcast s.broadcast := by
  simp only [step, hfatal, hrun, if_true]

theorem sameButRunning_running (s : State) (run : Bool) : SameButRunning s { s with running := run } :=
  ⟨fun _ => rfl, rfl, ⟨rfl, rfl⟩, fun _ => rfl, rfl, rfl, rfl⟩

/-! ### Phase 1 and the devices -/

/-- The broadcast calls the tick of each external device once (R133). -/
theorem State.broadcast_dev_of_device? {s : State} {k : Nat} {d : Device} {st : DevState}
    (h : s.device? k = some (d, st)) : s.broadcast.dev[k]? = some (d.tick st) := by
  unfold State.device? at h
  split at h
  · next hd hst =>
    cases h
    simp [List.getElem?_zipWith, hd, hst]
  · cases h

/-! ### Fetch and the decoder -/

section
variable {s t u : State} {b : Byte} {i : Instr}

theorem fetch_of_byte_error (hb : memReadByte .fetch s.pcCurrent s = .error t) : fetch s = .error t := by
  simp only [fetch, hb]

/-- An opcode byte that decodes with none of the bytes after it is fetched by the one byte read (R135, R136). -/
theorem fetch_of_decode_byte (hb : memReadByte .fetch s.pcCurrent s = .ok (b, t)) (hi : decode [b] = .ok (i, [])) :
    fetch s = .ok (i, t) := by
  rw [decode] at hi
  split at hi
  · cases hi
  · next make hlookup => cases hi; simp only [fetch, hb, hlookup]
  · next j hlookup => cases hi; simp only [fetch, hb, hlookup]
  · cases hi

/-- An opcode byte that decodes with the four bytes of `d` is fetched by the byte read and the read of the immediate,
which is then skipped (R137, D12). -/
theorem fetch_of_decode_encodeWide {d : Word} (hb : memReadByte .fetch s.pcCurrent s = .ok (b, t))
    (hd : memReadWord .immediate (t.pcCurrent + 1) t = .ok (d, u)) (hi : decode (encodeWide b d) = .ok (i, [])) :
    fetch s = .ok (i, u.skipImmediate) := by
  rw [encodeWide, decode] at hi
  split at hi
  · cases hi
  · cases hi
  · cases hi
  · next make hlookup =>
    simp only [wordOfBytes_byteOfWord] at hi
    cases hi
    simp only [fetch, hb, hlookup, hd]

theorem exists_wide_of_isWideOpcode (h : isWideOpcode b = true) : ∃ make, lookupOpcode b = some (.wide make) := by
  obtain ⟨form, hlookup⟩ := exists_lookupOpcode b
  cases lookupOpcode_rowEncodes hlookup with
  | nibble _ hbase hfamily =>
    obtain ⟨-, hnarrow⟩ := family_append_operandNibble _ hfamily b hbase
    cases h.symm.trans hnarrow
  | wide => exact ⟨_, hlookup⟩
  | zero _ hnarrow hbase =>
    rw [← eq_baseOf_of_le b hbase] at hnarrow
    cases h.symm.trans hnarrow

/-- A wide opcode whose immediate cannot be read: the read comes before the skip (R137, R140, D12). -/
theorem fetch_of_immediate_error (hb : memReadByte .fetch s.pcCurrent s = .ok (b, t)) (hw : isWideOpcode b = true)
    (hd : memReadWord .immediate (t.pcCurrent + 1) t = .error u) : fetch s = .error u := by
  obtain ⟨make, hlookup⟩ := exists_wide_of_isWideOpcode hw
  simp only [fetch, hb, hlookup, hd]

theorem memReadByte_ok_pc {kind : AccessKind} {a : Word} (h : memReadByte kind a s = .ok (b, t)) : SamePc s t := by
  rcases memReadByte_ok h with rfl | ⟨k, st, rfl⟩ <;> exact ⟨rfl, rfl⟩

theorem memReadWord_ok_pc {kind : AccessKind} {a v : Word} (h : memReadWord kind a s = .ok (v, t)) : SamePc s t := by
  rcases memReadWord_ok h with rfl | ⟨k, st, rfl⟩ <;> exact ⟨rfl, rfl⟩

/-- Past a wide immediate `pc.next` is five past the opcode byte (R104, R137). -/
theorem skipImmediate_eq (h : t.pcNext = s.pcNext + 1) : t.skipImmediate = { t with pcNext := s.pcNext + 5 } := by
  rw [State.skipImmediate, h, BitVec.add_assoc]
  rfl

/-! ### A step that fetches -/

theorem step_of_fetch_ok (hs : Fetches s) (hf : fetch s.broadcast = .ok (i, t)) : step s = exec i t := by
  obtain ⟨hrun, hfatal, harbitrate⟩ := hs
  simp only [step_of_running hrun hfatal, afterBroadcast, harbitrate, hf]

theorem step_of_fetch_error (hs : Fetches s) (hf : fetch s.broadcast = .error t) : step s = .next t := by
  obtain ⟨hrun, hfatal, harbitrate⟩ := hs
  simp only [step_of_running hrun hfatal, afterBroadcast, harbitrate, hf]

end

/-! ### The bytes of plain RAM -/

section
variable {s : State} {a : Word} {n : Nat}

theorem plainRam_mono {a m : Nat} (h : PlainRam s a n) (hm : m ≤ n) : PlainRam s a m := by
  obtain ⟨hram, hspace, hroute⟩ := h
  exact ⟨by omega, by omega, fun j hj => hroute j (by omega)⟩

theorem plainRam_succ {a : Nat} (h : PlainRam s a (n + 1)) : PlainRam s (a + 1) n := by
  obtain ⟨hram, hspace, hroute⟩ := h
  exact ⟨by omega, by omega, fun j hj => by simpa [Nat.add_assoc, Nat.add_comm 1 j] using hroute (j + 1) (by omega)⟩

theorem toNat_succ_of_plainRam (h : PlainRam s a.toNat n) (hn : 2 ≤ n) : (a + 1).toNat = a.toNat + 1 := by
  obtain ⟨-, hspace, -⟩ := h
  exact BitVec.toNat_add_of_lt (show a.toNat + 1 < 2 ^ 32 by omega)

theorem memReadByte_of_plainRam (kind : AccessKind) (h : PlainRam s a.toNat n) (hn : 1 ≤ n) :
    memReadByte kind a s = .ok (Memory.read s.ram a.toNat, s) := by
  obtain ⟨hram, -, hroute⟩ := h
  rw [memReadByte_of_ram (hroute 0 (by omega)), if_pos (by omega)]

theorem memReadWord_of_plainRam (kind : AccessKind) (h : PlainRam s a.toNat n) (hn : 4 ≤ n) :
    memReadWord kind a s = .ok (Memory.readWord s.ram a.toNat, s) := by
  obtain ⟨hram, -, hroute⟩ := h
  rw [memReadWord_of_ram (hroute 0 (by omega)), if_pos (by omega)]

theorem memReadByte_of_outside (kind : AccessKind) (hroute : s.route a = .ram) (hout : s.platform.ramSize ≤ a.toNat) :
    memReadByte kind a s = .error (s.addressError a 1 kind) := by
  rw [memReadByte_of_ram hroute, if_neg (by omega)]

theorem memReadWord_of_outside (kind : AccessKind) (hroute : s.route a = .ram)
    (hout : s.platform.ramSize ≤ a.toNat + 3) : memReadWord kind a s = .error (s.addressError a 4 kind) := by
  rw [memReadWord_of_ram hroute, if_neg (by omega)]

theorem readWord_of_ramBytes {a : Nat} {opcode : Byte} {d : Word} (h : ramBytes s a 5 = encodeWide opcode d) :
    Memory.read s.ram a = opcode ∧ Memory.readWord s.ram (a + 1) = d := by
  have hbytes : [Memory.read s.ram a, Memory.read s.ram (a + 1), Memory.read s.ram (a + 2), Memory.read s.ram (a + 3),
      Memory.read s.ram (a + 4)] = encodeWide opcode d := h
  simp only [encodeWide, List.cons.injEq, and_true] at hbytes
  obtain ⟨h0, h1, h2, h3, h4⟩ := hbytes
  exact ⟨h0, by rw [Memory.readWord, h1, h2, h3, h4, wordOfBytes_byteOfWord]⟩

theorem ramBytes_of_append {s : State} {a n : Nat} {front back : List Byte} (h : ramBytes s a n = front ++ back) :
    front.length ≤ n ∧ ramBytes s a front.length = front := by
  have hn : n = front.length + back.length := by simpa [ramBytes] using congrArg List.length h
  have htake := congrArg (List.take front.length) h
  refine ⟨by omega, ?_⟩
  simpa [ramBytes, ← List.map_take, List.take_range, hn] using htake

/-- An instruction is one opcode byte, or an opcode byte and a word (R100 to R103). -/
theorem encode_cases (i : Instr) : (∃ b, encode i = [b]) ∨ ∃ b d, encode i = encodeWide b d := by
  cases i with
  | ldn d | stn d | j d | jz d | jn d | jc d | jv d => exact .inr ⟨_, d, rfl⟩
  | _ => exact .inl ⟨_, rfl⟩

/-- Bytes of plain RAM that decode are the code of what they decode to. -/
theorem codeAt_of_decode {i : Instr} {rest : List Byte} (hram : PlainRam s s.pcNext.toNat n)
    (h : decode (ramBytes s s.pcNext.toNat n) = .ok (i, rest)) : CodeAt s i := by
  obtain ⟨b, operand, hencode, hbytes, -⟩ := decode_ok h
  rw [← hencode] at hbytes
  obtain ⟨hle, hfront⟩ := ramBytes_of_append hbytes
  exact ⟨plainRam_mono hram hle, hfront⟩

theorem fetch_of_codeAt {i : Instr} (h : CodeAt s i) : fetch s.broadcast =
    .ok (i, { s.broadcast with pcNext := s.pcNext + BitVec.ofNat 32 (encode i).length }) := by
  obtain ⟨hram, hbytes⟩ := h
  have hdecode : decode (encode i) = .ok (i, []) := by simpa using decode_encode i []
  rcases encode_cases i with ⟨b, hencode⟩ | ⟨b, d, hencode⟩ <;> rw [hencode] at hram hbytes hdecode ⊢
  · have hread := memReadByte_of_plainRam (s := s.broadcast) .fetch hram le_rfl
    have hb : Memory.read s.ram s.pcNext.toNat = b := List.head_eq_of_cons_eq hbytes
    rw [State.broadcast_ram, hb] at hread
    exact fetch_of_decode_byte hread hdecode
  · have hram : PlainRam s s.pcNext.toNat 5 := hram
    have hread := memReadByte_of_plainRam (s := s.broadcast) .fetch hram (by decide)
    have hnext : (s.pcNext + 1).toNat = s.pcNext.toNat + 1 := toNat_succ_of_plainRam hram (by decide)
    have hram' : PlainRam s (s.pcNext + 1).toNat 4 := hnext ▸ plainRam_succ hram
    have hread' := memReadWord_of_plainRam (s := s.broadcast) .immediate hram' le_rfl
    obtain ⟨hb, hd⟩ := readWord_of_ramBytes hbytes
    rw [State.broadcast_ram, hb] at hread
    rw [State.broadcast_ram, hnext, hd] at hread'
    rw [fetch_of_decode_encodeWide hread hread' hdecode, skipImmediate_eq (s := s) rfl]
    rfl

theorem step_of_codeAt {i : Instr} (hs : Fetches s) (h : CodeAt s i) :
    step s = exec i { s.broadcast with pcNext := s.pcNext + BitVec.ofNat 32 (encode i).length } :=
  step_of_fetch_ok hs (fetch_of_codeAt h)

end

/-! ### Taken jumps -/

/-- A taken jump, whichever it is, writes its target into `pc.next` (R230). -/
theorem exec_of_takenTarget {s : State} {i : Instr} {d : Word} (h : takenTarget s i = some d) :
    exec i s = .next (s.jump d) := by
  unfold takenTarget at h
  split at h
  · cases h; rfl
  · cases h; rfl
  · split at h
    · next htest => cases h; exact exec_of_jumpTest htest
    · cases h

/-! ### The LDN scenario -/

/-- The platform of the source's LDN scenario: the reference platform with `LDN 5` at address 0 (R142). -/
def ldnPlatform : Platform := { Platform.reference with image := [0xF0, 0x00, 0x00, 0x00, 0x05] }

/-- The scenario's state with the clock started. -/
def ldnStarted : State := { powerOn ldnPlatform with running := true }

theorem fetches_ldnStarted : Fetches ldnStarted := ⟨rfl, rfl, rfl⟩

theorem codeAt_ldnStarted : CodeAt ldnStarted (.ldn 5) := by
  unfold CodeAt PlainRam
  decide +kernel

end Sys2Proof.Machine

open Sys2Proof Sys2Proof.Machine Sys2Proof.Statement

/-- Settles O23: the step runs the jump past its own bytes, and the jump writes `pc.next`, which the next broadcast
moves into `pc.current`. -/
theorem jumpHasNoDelaySlot : Obligations.JumpHasNoDelaySlot := by
  intro s i d hs hcode htaken
  have hstep := step_of_codeAt hs hcode
  exact ⟨hstep, _, hstep.trans (exec_of_takenTarget htaken), rfl, rfl, rfl⟩

/-- Settles O38: a step answers only while the clock runs and no error is recorded, and then whatever the tick does
completes. -/
theorem tickHappensExactlyWhileRunning : Obligations.TickHappensExactlyWhileRunning := by
  intro s
  refine ⟨⟨fun ⟨t, h⟩ => ?_, fun ⟨hrun, hfatal⟩ => ?_⟩, fun hfatal hstopped => ?_, fun e hfatal => ?_, rfl,
    ⟨_, rfl, rfl, sameButRunning_running s false⟩, fun hfatal => ?_⟩
  · obtain ⟨hrun, hfatal, -⟩ := step_cases h
    exact ⟨hrun, hfatal⟩
  · rw [step_of_running hrun hfatal]
    exact afterBroadcast_completes s.broadcast
  · simp [step, hfatal, hstopped]
  · simp [step, hfatal]
  · exact ⟨{ s with running := true }, by simp [environment, hfatal], rfl, sameButRunning_running s true⟩

/-- Settles O40: the byte read after the broadcast raises, and raising records the error and nothing else. -/
theorem fetchOutsideRamIsFatal : Obligations.FetchOutsideRamIsFatal := by
  intro s hs hroute hout
  have hb := memReadByte_of_outside (s := s.broadcast) .fetch hroute hout
  have hstep := step_of_fetch_error hs (fetch_of_byte_error hb)
  obtain ⟨hrun, -⟩ := hs
  exact ⟨_, hstep, rfl, rfl, rfl, rfl, fun _ _ _ => State.broadcast_dev_of_device?, fun _ => rfl, rfl, fun _ => rfl,
    hrun⟩

/-- Settles O41: the opcode byte is read from plain RAM and is a wide one, and the read of its immediate raises before
the skip. -/
theorem immediateOutsideRamIsFatal : Obligations.ImmediateOutsideRamIsFatal := by
  intro s hs hram hlow hhigh hroute hout
  have hb := memReadByte_of_plainRam (s := s.broadcast) .fetch hram le_rfl
  have hwide : isWideOpcode (Memory.read s.ram s.pcNext.toNat) = true := by simp [isWideOpcode, hlow, hhigh]
  have hd := memReadWord_of_outside (s := s.broadcast) .immediate hroute hout
  exact ⟨_, step_of_fetch_error hs (fetch_of_immediate_error hb hwide hd), rfl, rfl, rfl, fun _ => rfl, rfl,
    fun _ => rfl⟩

/-- Settles O42: bytes of plain RAM that decode are code, and for bytes from anywhere fetch and the decoder agree. -/
theorem stepRunsTheDecodedInstruction : Obligations.StepRunsTheDecodedInstruction := by
  refine ⟨fun s => ?_, fun s n i rest hs hram hdecode _ => ?_, fun s u b i hs hb hdecode _ => ?_,
    fun s u v b d i hs hb hd hdecode _ => ?_⟩
  · exact ⟨rfl, rfl, fun _ _ _ => State.broadcast_dev_of_device?, fun _ => rfl, rfl, fun _ => rfl, rfl, rfl, rfl⟩
  · exact step_of_codeAt hs (codeAt_of_decode hram hdecode)
  · exact step_of_fetch_ok hs (fetch_of_decode_byte hb hdecode)
  · obtain ⟨hcurrent, hnext⟩ := memReadByte_ok_pc hb
    obtain ⟨-, hnext'⟩ := memReadWord_ok_pc hd
    have hd' : memReadWord .immediate (u.pcCurrent + 1) u = .ok (d, v) := by rwa [hcurrent]
    simp only [wordByte_eq_byteOfWord] at hdecode
    rw [← skipImmediate_eq (hnext'.trans hnext)]
    exact step_of_fetch_ok hs (fetch_of_decode_encodeWide hb hd' hdecode)

/-- Settles O43: power-on of the scenario's platform, the clock started, and one step of its code, which sets
register 0. -/
theorem ldnScenario : Obligations.LdnScenario := by
  have hstep := step_of_codeAt fetches_ldnStarted codeAt_ldnStarted
  obtain ⟨hvalue, -, htarget, ⟨hcurrent, hnext⟩, -⟩ :=
    onlyRegister_setValue { ldnStarted.broadcast with pcNext := 5 } 0 5
  exact ⟨powerOn ldnPlatform, ldnStarted, _, bringUp_eq_ok_iff.mpr ⟨by decide, rfl⟩, rfl, rfl, rfl,
    powerOn_reg ldnPlatform, rfl, rfl, rfl, rfl, rfl, rfl, hstep, hvalue, htarget, hcurrent, hnext, hnext, rfl⟩
end

section
/-! PROOFS. The primitives of one register at any stored width (spec/41_alu_primitives.md R161 to R175). Each exact
integer is narrowed by `BitVec.ofInt`, which turns the arithmetic of integers into that of bit vectors; so first the
shifts in those terms, then what a wider accumulator shows in its 32-bit view, then the range flags. -/

namespace Sys2Proof.Machine
open Sys2Proof.Statement

/-! ### Shifts over the stored width -/

theorem Reg.shiftLeft_eq {w : Nat} (r : Reg w) (n : Nat) : r.shiftLeft n = ⟨r.acc <<< n, false, false⟩ := by
  have hpow : BitVec.ofInt w (2 ^ n) = BitVec.twoPow w n := by
    rw [← Nat.cast_ofNat, ← Nat.cast_pow, BitVec.ofInt_natCast]
    exact BitVec.eq_of_toNat_eq (by rw [BitVec.toNat_ofNat, BitVec.toNat_twoPow])
  rw [Reg.shiftLeft, Reg.ofExact, BitVec.ofInt_mul, BitVec.ofInt_toInt, hpow, BitVec.mul_twoPow_eq_shiftLeft]

theorem Reg.shiftRight_eq {w : Nat} (r : Reg w) (n : Nat) : r.shiftRight n = ⟨r.acc >>> n, false, false⟩ := by
  rw [Reg.shiftRight, Reg.ofExact, ← Nat.shiftRight_eq_div_pow, BitVec.ofInt_natCast, ← BitVec.toNat_ushiftRight,
    BitVec.ofNat_toNat, BitVec.setWidth_eq]

theorem Reg.signedShiftRight_eq {w : Nat} (r : Reg w) (n : Nat) :
    r.signedShiftRight n = ⟨r.acc.sshiftRight n, false, false⟩ := by
  rw [Reg.signedShiftRight, Reg.ofExact, BitVec.sshiftRight, Int.shiftRight_eq_div_pow, Nat.cast_pow, Nat.cast_ofNat]

/-! ### The view of an accumulator that is at least as wide (R162) -/

section
variable {w : Nat}

/-- The 32-bit view forgets what sign extension added (R162, R172). -/
theorem setWidth_signExtend (hw : 32 ≤ w) (v : Word) : (v.signExtend w).setWidth 32 = v := by
  rw [← BitVec.signExtend_eq_setWidth_of_le _ hw, BitVec.signExtend, BitVec.toInt_signExtend_of_le hw,
    BitVec.ofInt_toInt]

theorem Reg.view_set (hw : 32 ≤ w) (v : Word) : (Reg.set v.toInt : Reg w).view = v :=
  setWidth_signExtend hw v

theorem Reg.view_addTo (hw : 32 ≤ w) (r : Reg w) (v : Word) : (r.addTo v.toInt).view = r.view + v := by
  rw [Reg.view, Reg.addTo_acc, BitVec.setWidth_add _ _ hw, ← BitVec.signExtend, setWidth_signExtend hw, Reg.view]

theorem Reg.view_subtract (hw : 32 ≤ w) (r : Reg w) (v : Word) : (r.subtract v.toInt).view = r.view - v := by
  rw [Reg.subtract, Reg.view, Reg.addTo_acc, BitVec.setWidth_add _ _ hw, BitVec.ofInt_neg,
    BitVec.setWidth_neg_of_le hw, ← BitVec.signExtend, setWidth_signExtend hw, Reg.view, BitVec.sub_eq_add_neg]

theorem Reg.view_multiplyBy (hw : 32 ≤ w) (r : Reg w) (v : Word) : (r.multiplyBy v.toInt).view = r.view * v := by
  rw [Reg.view, Reg.multiplyBy_acc, BitVec.setWidth_mul _ _ hw, ← BitVec.signExtend, setWidth_signExtend hw, Reg.view]

/-! ### The exact result and its range (R163 to R165) -/

theorem rangeFlag_eq_outside32 (z : Int) : rangeFlag z = outside32 z := rangeFlag_eq z

/-- A stored word keeps its value, which an operation on it starts from. -/
theorem Reg.toInt_acc_set (hw : 32 ≤ w) (v : Word) : (Reg.set v.toInt : Reg w).acc.toInt = v.toInt :=
  BitVec.toInt_signExtend_of_le hw

theorem Reg.carry_addTo (r : Reg w) (d : Int) : (r.addTo d).carry = outside32 (r.acc.toInt + d) :=
  rangeFlag_eq_outside32 _

theorem Reg.carry_subtract (r : Reg w) (d : Int) : (r.subtract d).carry = outside32 (r.acc.toInt - d) :=
  rangeFlag_eq_outside32 _

theorem Reg.overflow_multiplyBy (r : Reg w) (d : Int) : (r.multiplyBy d).overflow = outside32 (r.acc.toInt * d) :=
  rangeFlag_eq_outside32 _

/-! ### Adding to an accumulator known as a narrowed integer (R175) -/

theorem Reg.acc_addTo_of_eq_ofInt {r : Reg w} {z : Int} (h : r.acc = BitVec.ofInt w z) (d : Int) :
    (r.addTo d).acc = BitVec.ofInt w (z + d) := by
  rw [Reg.addTo_acc, h, BitVec.ofInt_add]

/-- Narrowing leaves an integer as it is that needs fewer bits than the width has. -/
theorem toInt_ofInt_of_lt_width {m : Nat} (hm : m < w) {z : Int} (hlow : -2 ^ m ≤ z) (hhigh : z < 2 ^ m) :
    (BitVec.ofInt w z).toInt = z := by
  have hpow : (2 : Int) ^ m ≤ 2 ^ (w - 1) := pow_le_pow_right₀ (by decide) (by omega)
  exact BitVec.toInt_ofInt_eq_self (by omega) (by omega) (by omega)

end

end Sys2Proof.Machine

open Sys2Proof Sys2Proof.Machine

/-- Settles O16: each exact integer, narrowed, is the bit-vector operation, and the narrowed operand of a logic
primitive is its sign extension by definition. -/
theorem primitivesAreBitVectorOperations : Obligations.PrimitivesAreBitVectorOperations :=
  fun _ x n _ _ => ⟨x.complement_eq, x.negate_eq, x.shiftLeft_eq n.toNat, x.shiftRight_eq n.toNat,
    x.signedShiftRight_eq n.toNat, rfl, rfl, rfl⟩

/-- Settles O17: the view is taken of wrapped results, and the flags of the exact ones, which start from the stored
word. -/
theorem rangeFlagsAtEveryWidth : Obligations.RangeFlagsAtEveryWidth := by
  intro w a b hw
  have hview := Reg.view_set hw a
  have hvalue := Reg.toInt_acc_set hw a
  refine ⟨hview, ⟨?_, ?_, rfl⟩, ⟨?_, ?_, rfl⟩, ⟨?_, rfl, ?_⟩, Reg.divideBy_zero⟩
  · rw [Reg.view_addTo hw, hview]
  · rw [Reg.carry_addTo, hvalue]
  · rw [Reg.view_subtract hw, hview]
  · rw [Reg.carry_subtract, hvalue]
  · rw [Reg.view_multiplyBy hw, hview]
  · rw [Reg.overflow_multiplyBy, hvalue]

/-- Settles O18: after k INCs the accumulator is `2147483645 + k`, narrowed; that integer fits in 32 bits up to
`k = 2`, and beyond that in any greater width. -/
theorem threeIncsSetCarry : Obligations.ThreeIncsSetCarry := by
  intro w x hw hx
  have h0 : x.acc = BitVec.ofInt w 2147483645 := by rw [hx, Reg.set, Reg.ofExact]
  have h1 := Reg.acc_addTo_of_eq_ofInt h0 1
  have h2 := Reg.acc_addTo_of_eq_ofInt h1 1
  have h3 := Reg.acc_addTo_of_eq_ofInt h2 1
  have h4 := Reg.acc_addTo_of_eq_ofInt h3 1
  have hfits {z : Int} : -2 ^ 31 ≤ z → z < 2 ^ 31 → (BitVec.ofInt w z).toInt = z := toInt_ofInt_of_lt_width hw
  have v0 := hfits (z := 2147483645) (by decide) (by decide)
  have v1 := hfits (z := 2147483646) (by decide) (by decide)
  have v2 := hfits (z := 2147483647) (by decide) (by decide)
  simp only [Reg.carry_addTo, h0, h1, h2, h3, h4, Int.reduceAdd, v0, v1, v2, true_and]
  refine ⟨rfl, rfl, rfl, fun hnarrow => ?_, fun hwide => ?_⟩
  · subst hnarrow
    decide
  · have v3 := toInt_ofInt_of_lt_width hwide (z := 2147483648) (by decide) (by decide)
    have v4 := toInt_ofInt_of_lt_width hwide (z := 2147483649) (by decide) (by decide)
    rw [v3, v4]
    exact ⟨rfl, rfl⟩
end

section
/-! PROOFS. Selection and copy (spec/42_select_copy.md). First the byte of a format N instruction as the sum the spec
writes it as, then the two instructions by the state operation each is. -/

namespace Sys2Proof

/-- The byte of a format N instruction is its family's base byte plus the operand, since the two share no bit (R101). -/
theorem encodeNibble_eq_add (family operand : Nibble) :
    encodeNibble family operand = [(family ++ 0#4) + operand.setWidth 8] := by
  have hoperand : operand.setWidth 8 = 0#4 ++ operand := BitVec.setWidth_eq_append (by decide)
  have hdisjoint : (family ++ 0#4) &&& (0#4 ++ operand) = 0#8 := by
    rw [BitVec.and_append, BitVec.and_zero, BitVec.zero_and]
    rfl
  rw [hoperand, BitVec.add_eq_or_of_and_eq_zero _ _ hdisjoint, BitVec.or_append, BitVec.or_zero, BitVec.zero_or,
    encodeNibble]

end Sys2Proof

open Sys2Proof Sys2Proof.Machine Sys2Proof.Statement

/-- Settles O1: SEL is the write of the target pointer, which no other part of the state shares. -/
theorem selRepointsTarget : Obligations.SelRepointsTarget :=
  fun r _ => ⟨encodeNibble_eq_add 0x0 r, _, rfl, rfl, fun _ => rfl, ⟨rfl, rfl⟩, fun _ => rfl, rfl, rfl, rfl, rfl⟩

/-- Settles O2: CP is a `set` of register r, and the conditions are those of the clean register that `set` leaves. -/
theorem cpCopiesTargetAndClearsFlags : Obligations.CpCopiesTargetAndClearsFlags := by
  intro r s
  have hset := onlyRegister_setValue s r (s.view s.target)
  have ⟨hclean, _⟩ := hset
  exact ⟨encodeNibble_eq_add 0x4 r, s.setValue r (s.signedView s.target), rfl, hset,
    (congrArg Reg.isZero hclean).trans (Reg.isZero_eq _), (congrArg Reg.isNegative hclean).trans (Reg.isNegative_eq _)⟩
end

section
/-! PROOFS. Loads and stores (spec/43_load_store.md). First the answer of LDR and of a store by the answer of the one
access each makes, then what the state operations of that access come to in the words of the statements; the
obligations then go through the routes of the address. -/

namespace Sys2Proof

/-- The bytes of a format W instruction, in the words of the statements (R103). -/
theorem encodeWide_eq_wordBytes (opcode : Byte) (d : Word) :
    encodeWide opcode d =
      [opcode, Statement.wordByte d 0, Statement.wordByte d 1, Statement.wordByte d 2, Statement.wordByte d 3] := by
  simp only [Machine.wordByte_eq_byteOfWord, encodeWide]

end Sys2Proof

namespace Sys2Proof.Machine
open Sys2Proof.Statement

/-! ### The states an access leaves -/

theorem onlyFatal_addressError (s : State) (a : Word) (n : Nat) (kind : AccessKind) :
    OnlyFatal s (s.addressError a n kind) (.addressError a n kind) :=
  ⟨rfl, fun _ => rfl, rfl, ⟨rfl, rfl⟩, fun _ => rfl, rfl, rfl, rfl⟩

theorem onlyDeviceAndRegister_setDev (s : State) (k : Nat) (st : DevState) (q : Nibble) :
    OnlyDeviceAndRegister s (s.setDev k st) k st q (s.reg q) :=
  ⟨rfl, rfl, fun _ _ => rfl, rfl, ⟨rfl, rfl⟩, fun _ => rfl, rfl, rfl, rfl⟩

theorem onlyDeviceAndRegister_setDev_setValue (s : State) (k : Nat) (st : DevState) (q : Nibble) (v : Word) :
    OnlyDeviceAndRegister s ((s.setDev k st).setValue q v.toInt) k st q (clean v) := by
  obtain ⟨hclean, hothers, -⟩ := onlyRegister_setValue (s.setDev k st) q v
  exact ⟨rfl, hclean, hothers, rfl, ⟨rfl, rfl⟩, fun _ => rfl, rfl, rfl, rfl⟩

/-! ### The one access of an instruction -/

section
variable {s t : State} {a v : Word} {k o : Nat} {d : Device} {st : DevState}

theorem memReadWord_of_readInteger (hroute : s.route a = .device k o) (hd : s.device? k = some (d, st))
    (kind : AccessKind) : memReadWord kind a s =
      (d.readInteger st o).elim (.error (s.addressError a 4 .deviceFault)) fun x => .ok (x.1, s.setDev k x.2) :=
  (memReadWord_of_device hroute kind).trans (State.deviceRead_eq hd 4 _)

theorem memWriteWord_of_writeInteger (hroute : s.route a = .device k o) (hd : s.device? k = some (d, st)) (v : Word) :
    memWriteWord a v s =
      (d.writeInteger st o v).elim (.error (s.addressError a 4 .deviceFault)) fun st' => .ok (s.setDev k st') :=
  (memWriteWord_of_device hroute v).trans (State.deviceWrite_eq hd 4 _)

theorem ldr_completes_of_read_ok {r : Nibble} {property : State → Prop}
    (hread : memReadWord .read (s.view r) s = .ok (v, t)) (ht : property (t.setValue t.target v.toInt)) :
    Completes (.ldr r) s property :=
  ⟨_, by simp only [exec, execLdr, loadTarget, hread], ht⟩

theorem ldr_completes_of_read_error {r : Nibble} {n : Nat} {kind : AccessKind}
    (hread : memReadWord .read (s.view r) s = .error (s.addressError a n kind)) :
    Completes (.ldr r) s fun t => OnlyFatal s t (.addressError a n kind) :=
  ⟨_, by simp only [exec, execLdr, loadTarget, hread], onlyFatal_addressError s a n kind⟩

theorem store_completes_of_write_ok {i : Instr} {property : State → Prop} (ha : storeAddress s i = some a)
    (hwrite : memWriteWord a (s.view s.target) s = .ok t) (ht : property t) : Completes i s property :=
  ⟨t, by simp only [exec_of_storeAddress ha, storeTarget, State.targetView, hwrite], ht⟩

theorem store_completes_of_write_error {i : Instr} {n : Nat} {kind : AccessKind} (ha : storeAddress s i = some a)
    (hwrite : memWriteWord a (s.view s.target) s = .error (s.addressError a n kind)) :
    Completes i s fun t => OnlyFatal s t (.addressError a n kind) :=
  ⟨_, by simp only [exec_of_storeAddress ha, storeTarget, State.targetView, hwrite], onlyFatal_addressError s a n kind⟩

end

end Sys2Proof.Machine

open Sys2Proof Sys2Proof.Machine Sys2Proof.Statement

/-- Settles O3: LDN is a `set` of the target register. -/
theorem ldnLoadsImmediate : Obligations.LdnLoadsImmediate :=
  fun d s => ⟨encodeWide_eq_wordBytes 0xF0 d, s.setValue s.target d.toInt, rfl, onlyRegister_setValue s s.target d⟩

/-- Settles O4: on each route of the address, the equation of the read says whether LDR sets the target register or
records the error. -/
theorem ldrLoadsTheAddressedWord : Obligations.LdrLoadsTheAddressedWord := by
  intro r s
  refine ⟨encodeNibble_eq_add 0x1 r, fun hroute hin => ?_, fun hroute hout => ?_, fun k o d st hroute hd => ?_,
    fun o hroute => ?_, fun o hroute => ?_⟩
  · exact ldr_completes_of_read_ok ((memReadWord_of_ram hroute _).trans (if_pos hin)) (onlyRegister_setValue s _ _)
  · exact ldr_completes_of_read_error ((memReadWord_of_ram hroute _).trans (if_neg (by omega)))
  · have hread := memReadWord_of_readInteger hroute hd .read
    refine ⟨fun v st' hv => ?_, fun hfault => ?_⟩
    · rw [hv] at hread
      exact ldr_completes_of_read_ok hread (onlyDeviceAndRegister_setDev_setValue s k st' _ v)
    · rw [hfault] at hread
      exact ldr_completes_of_read_error hread
  · have hread := memReadWord_of_pcWindow hroute .read
    exact ⟨fun hzero => ldr_completes_of_read_ok (hread.trans (if_pos hzero)) (onlyRegister_setValue s _ _),
      fun hne => ldr_completes_of_read_error (hread.trans (if_neg hne))⟩
  · have hread := memReadWord_of_cpuWindow hroute .read
    exact ⟨fun hzero => ldr_completes_of_read_ok (hread.trans (if_pos hzero)) (onlyRegister_setValue s _ _),
      fun hne => ldr_completes_of_read_error (hread.trans (if_neg hne))⟩

/-- Settles O5: STR and STN are one store at the address each computes, and on each route the equation of the write
says what that store does. -/
theorem storesWriteTheAddressedWord : Obligations.StoresWriteTheAddressedWord := by
  refine ⟨encodeNibble_eq_add 0x2, encodeWide_eq_wordBytes 0xF1, fun s i a ha => ?_⟩
  refine ⟨fun hw hroute hin => ?_, fun hroute hout => ?_, fun k o d st hroute hd => ?_, fun o hroute => ?_,
    fun o hroute => ?_⟩
  · exact store_completes_of_write_ok ha ((memWriteWord_of_ram hroute _).trans (if_pos hin))
      (onlyWordStored_setRam _ hw hin)
  · exact store_completes_of_write_error ha ((memWriteWord_of_ram hroute _).trans (if_neg (by omega)))
  · have hwrite := memWriteWord_of_writeInteger hroute hd (s.view s.target)
    refine ⟨fun st' hst => ?_, fun hfault => ?_⟩
    · rw [hst] at hwrite
      exact store_completes_of_write_ok ha hwrite (onlyDeviceAndRegister_setDev s k st' s.target)
    · rw [hfault] at hwrite
      exact store_completes_of_write_error ha hwrite
  · have hwrite := memWriteWord_of_pcWindow hroute (s.view s.target)
    exact ⟨fun hzero => store_completes_of_write_ok ha (hwrite.trans (if_pos hzero)) (onlyNext_jump s _),
      fun hne => store_completes_of_write_error ha (hwrite.trans (if_neg hne))⟩
  · have hwrite := memWriteWord_of_cpuWindow hroute (s.view s.target)
    exact ⟨fun hzero => store_completes_of_write_ok ha (hwrite.trans (if_pos hzero)) (onlyRegister_setValue s _ _),
      fun hne => store_completes_of_write_error ha (hwrite.trans (if_neg hne))⟩

/-- Settles O6: the CPU-window clauses of the load and of the stores say the same of the state they leave. -/
theorem cpuWindowExposesTheTarget : Obligations.CpuWindowExposesTheTarget := by
  intro s i a o haccess hroute
  rcases haccess with ⟨r, rfl, rfl⟩ | ha
  · obtain ⟨-, -, -, -, -, hcpu⟩ := ldrLoadsTheAddressedWord r s
    exact hcpu o hroute
  · obtain ⟨-, -, hstores⟩ := storesWriteTheAddressedWord
    obtain ⟨-, -, -, -, hcpu⟩ := hstores s i a ha
    exact hcpu o hroute
end

section
/-! PROOFS. The register-operand instructions (spec/44_alu_register.md). First what an instruction leaves that applies
one primitive to `$TARGET`, then what each primitive makes of a register and the view of another; the range of a
quotient is the one fact of arithmetic. -/

namespace Sys2Proof.Machine
open Sys2Proof.Statement

/-! ### One primitive applied to `$TARGET` -/

theorem onlyRegister_setTarget (s : State) (x : Register) : OnlyRegister s (s.setTarget x) s.target x :=
  ⟨State.reg_setReg_self s s.target x, fun p hp => State.reg_setReg_ne s s.target p x hp, rfl, ⟨rfl, rfl⟩,
    fun _ => rfl, rfl, rfl, rfl, rfl⟩

theorem completes_of_targetPrimitive {s : State} {i : Instr} {f : Register → Register} {x : Register}
    (hi : targetPrimitive s.signedView i = some f) (hx : f s.targetReg = x) :
    Completes i s fun t => OnlyRegister s t s.target x :=
  ⟨s.setTarget x, hx ▸ exec_of_targetPrimitive hi, onlyRegister_setTarget s x⟩

/-! ### The exact quotient (R166) -/

/-- The quotient of bit vectors is the truncated one, narrowed, for every divisor. -/
theorem ofInt_tdiv_toInt {w : Nat} (a b : BitVec w) : BitVec.ofInt w (a.toInt.tdiv b.toInt) = a.sdiv b :=
  BitVec.eq_of_toInt_eq (by rw [BitVec.toInt_ofInt, BitVec.toInt_sdiv])

theorem outside32_toInt (v : Word) : outside32 v.toInt = false := by
  have hlow : -2 ^ 31 ≤ v.toInt := v.le_toInt
  have hhigh : v.toInt < 2 ^ 31 := v.toInt_lt
  exact decide_eq_false (by omega)

/-- Every other quotient of two words is again the value of a word. -/
theorem outside32_tdiv_iff (a b : Word) :
    outside32 (a.toInt.tdiv b.toInt) = true ↔ a = BitVec.intMin 32 ∧ b = -1 := by
  constructor
  · intro hout
    by_contra hcorner
    rw [← BitVec.toInt_sdiv_of_ne_or_ne a b (not_and_or.mp hcorner), outside32_toInt] at hout
    contradiction
  · rintro ⟨rfl, rfl⟩
    decide

/-! ### Each primitive with the view of a register as its operand (R163 to R166, R172) -/

section
variable (x : Register) (v : Word)

theorem Reg.andWith_toInt : x.andWith v.toInt = clean (x.view &&& v) := by
  rw [Reg.andWith, BitVec.ofInt_toInt, Reg.view_eq_acc, clean]

theorem Reg.orWith_toInt : x.orWith v.toInt = clean (x.view ||| v) := by
  rw [Reg.orWith, BitVec.ofInt_toInt, Reg.view_eq_acc, clean]

theorem Reg.xorWith_toInt : x.xorWith v.toInt = clean (x.view ^^^ v) := by
  rw [Reg.xorWith, BitVec.ofInt_toInt, Reg.view_eq_acc, clean]

theorem Reg.addTo_toInt : x.addTo v.toInt = ⟨x.view + v, outside32 (x.view.toInt + v.toInt), false⟩ := by
  rw [Reg.addTo, rangeFlag_eq_outside32, BitVec.ofInt_add, BitVec.ofInt_toInt, BitVec.ofInt_toInt, Reg.view_eq_acc]

theorem Reg.subtract_toInt : x.subtract v.toInt = ⟨x.view - v, outside32 (x.view.toInt - v.toInt), false⟩ := by
  rw [Reg.subtract, Reg.addTo, rangeFlag_eq_outside32, BitVec.ofInt_add, BitVec.ofInt_neg, BitVec.ofInt_toInt,
    BitVec.ofInt_toInt, ← BitVec.sub_eq_add_neg, ← Int.sub_eq_add_neg, Reg.view_eq_acc]

theorem Reg.multiplyBy_toInt :
    x.multiplyBy v.toInt = ⟨x.view * v, false, outside32 (x.view.toInt * v.toInt)⟩ := by
  rw [Reg.multiplyBy, rangeFlag_eq_outside32, BitVec.ofInt_mul, BitVec.ofInt_toInt, BitVec.ofInt_toInt,
    Reg.view_eq_acc]

theorem Reg.divideBy_toInt_of_eq_zero (hv : v = 0) : x.divideBy v.toInt = ⟨x.view, true, true⟩ := by
  rw [hv, Reg.view_eq_acc]
  exact x.divideBy_zero

theorem Reg.divideBy_toInt_of_ne_zero (hv : v ≠ 0) :
    x.divideBy v.toInt = ⟨x.view.sdiv v, false, outside32 (x.view.toInt.tdiv v.toInt)⟩ := by
  have hne : v.toInt ≠ 0 := fun hzero => hv (BitVec.eq_of_toInt_eq hzero)
  rw [Reg.divideBy, if_neg hne, rangeFlag_eq_outside32, ofInt_tdiv_toInt, Reg.view_eq_acc]

end

end Sys2Proof.Machine

open Sys2Proof Sys2Proof.Machine Sys2Proof.Statement

/-- Settles O7: at 32 bits the operand of each logic primitive is the view itself. -/
theorem logicOperationsClearFlags : Obligations.LogicOperationsClearFlags :=
  fun r s =>
    ⟨⟨encodeNibble_eq_add 0x5 r, completes_of_targetPrimitive rfl (s.targetReg.andWith_toInt (s.view r))⟩,
      ⟨encodeNibble_eq_add 0x6 r, completes_of_targetPrimitive rfl (s.targetReg.orWith_toInt (s.view r))⟩,
      ⟨encodeNibble_eq_add 0x7 r, completes_of_targetPrimitive rfl (s.targetReg.xorWith_toInt (s.view r))⟩⟩

/-- Settles O8: ADD applies `addTo`, whose carry is the range flag of the exact sum. -/
theorem addReportsRangeInCarry : Obligations.AddReportsRangeInCarry :=
  fun r s => ⟨encodeNibble_eq_add 0x8 r, completes_of_targetPrimitive rfl (s.targetReg.addTo_toInt (s.view r))⟩

/-- Settles O9: SUB applies `subtract`, which adds the exact negation, so the carry is the range flag of the exact
difference for a subtrahend of `-2^31` too (D4). -/
theorem subReportsRangeInCarry : Obligations.SubReportsRangeInCarry :=
  fun r s => ⟨encodeNibble_eq_add 0x9 r, completes_of_targetPrimitive rfl (s.targetReg.subtract_toInt (s.view r))⟩

/-- Settles O10: MUL applies `multiplyBy`, whose overflow is the range flag of the exact product. -/
theorem mulReportsRangeInOverflow : Obligations.MulReportsRangeInOverflow :=
  fun r s => ⟨encodeNibble_eq_add 0xA r, completes_of_targetPrimitive rfl (s.targetReg.multiplyBy_toInt (s.view r))⟩

/-- Settles O11: DIV applies `divideBy`, by its two cases; a quotient that is no word's value is out of range, and only
`-2^31 / -1` is one. -/
theorem divTruncatesAndFlagsZeroDivisor : Obligations.DivTruncatesAndFlagsZeroDivisor :=
  fun r s =>
    ⟨encodeNibble_eq_add 0xB r,
      fun hzero => completes_of_targetPrimitive rfl (s.targetReg.divideBy_toInt_of_eq_zero (s.view r) hzero),
      fun hne => completes_of_targetPrimitive rfl (s.targetReg.divideBy_toInt_of_ne_zero (s.view r) hne),
      fun _ => outside32_tdiv_iff (s.view s.target) (s.view r)⟩
end

section
/-! PROOFS. The shifts (spec/45_shift.md). Each shifts the stored accumulator by the nibble's value; at 32 bits the
stored accumulator is the view, so the three rules about accumulators become rules about views. -/

namespace Sys2Proof.Machine
open Sys2Proof.Statement

section
variable (x : Register) (n : Nat)

theorem Reg.shiftLeft_eq_clean_view : x.shiftLeft n = clean (x.view <<< n) := by
  rw [Reg.shiftLeft_eq, Reg.view_eq_acc, clean]

theorem Reg.shiftRight_eq_clean_view : x.shiftRight n = clean (x.view >>> n) := by
  rw [Reg.shiftRight_eq, Reg.view_eq_acc, clean]

theorem Reg.signedShiftRight_eq_clean_view : x.signedShiftRight n = clean (x.view.sshiftRight n) := by
  rw [Reg.signedShiftRight_eq, Reg.view_eq_acc, clean]

end

end Sys2Proof.Machine

open Sys2Proof Sys2Proof.Machine Sys2Proof.Statement

/-- Settles O12: each shift applies its primitive to `$TARGET` with the nibble as count. The primitive sets the whole
register for every count, so a count of 0 clears the flags too. -/
theorem shiftsClearFlags : Obligations.ShiftsClearFlags :=
  fun n s =>
    ⟨⟨encodeNibble_eq_add 0xC n, completes_of_targetPrimitive rfl (s.targetReg.shiftLeft_eq_clean_view n.toNat)⟩,
      ⟨encodeNibble_eq_add 0xD n, completes_of_targetPrimitive rfl (s.targetReg.shiftRight_eq_clean_view n.toNat)⟩,
      ⟨encodeNibble_eq_add 0xE n,
        completes_of_targetPrimitive rfl (s.targetReg.signedShiftRight_eq_clean_view n.toNat)⟩⟩
end

section
/-! PROOFS. Control transfer (spec/46_control_transfer.md). A conditional jump either jumps or does nothing
(`jumpIf`), and both write `pc.next` alone; so first what the four tests have in common, then each test's condition in
the words of its rule. -/

namespace Sys2Proof

theorem length_encode_of_jumpTest {i : Instr} {x : Machine.Register} {d : Word} {taken : Bool}
    (h : Statement.jumpTest i x = some (d, taken)) : (encode i).length = 5 := by
  cases i <;> cases h <;> rfl

end Sys2Proof

namespace Sys2Proof.Machine
open Sys2Proof.Statement

theorem onlyNext_jumpIf (taken : Bool) (d : Word) (s : State) :
    OnlyNext s (jumpIf taken d s) (if taken = true then d else s.pcNext) := by
  cases taken with
  | true => exact onlyNext_jump s d
  | false => exact onlyNext_jump s s.pcNext

theorem completes_of_jumpTest {s : State} {i : Instr} {d : Word} {taken : Bool}
    (h : jumpTest i (s.reg s.target) = some (d, taken)) :
    Completes i s fun t => OnlyNext s t (if taken = true then d else s.pcNext) :=
  ⟨jumpIf taken d s, exec_of_jumpTest h, onlyNext_jumpIf taken d s⟩

end Sys2Proof.Machine

open Sys2Proof Sys2Proof.Machine Sys2Proof.Statement

/-- Settles O19: J is the state operation `jump`. -/
theorem jumpWritesOnlyNext : Obligations.JumpWritesOnlyNext :=
  fun d s => ⟨encodeWide_eq_wordBytes 0xF2 d, s.jump d, rfl, onlyNext_jump s d⟩

/-- Settles O20: JR is the state operation `jump` to a view, which it reads before it writes (D8). -/
theorem jumpRegisterWritesOnlyNext : Obligations.JumpRegisterWritesOnlyNext :=
  fun r s => ⟨encodeNibble_eq_add 0x3 r, s.jump (s.view r), rfl, onlyNext_jump s (s.view r)⟩

/-- Settles O21: each of the four is the jump of its test. JC and JV test the flag itself, JZ decides its condition,
and JN's sign bit is the negative condition. -/
theorem conditionalJumpsTestTheTarget : Obligations.ConditionalJumpsTestTheTarget := by
  intro d s
  refine ⟨⟨encodeWide_eq_wordBytes 0xF3 d, ?_⟩, ⟨encodeWide_eq_wordBytes 0xF4 d, ?_⟩,
    ⟨encodeWide_eq_wordBytes 0xF5 d, completes_of_jumpTest rfl⟩,
    ⟨encodeWide_eq_wordBytes 0xF6 d, completes_of_jumpTest rfl⟩⟩
  · have hjz := completes_of_jumpTest (s := s) (i := .jz d) rfl
    simpa only [decide_eq_true_eq] using hjz
  · have hjn := completes_of_jumpTest (s := s) (i := .jn d) rfl
    simpa only [BitVec.msb_eq_toInt, decide_eq_true_eq] using hjn

/-- Settles O22: the step runs the jump with `pc.next` past its five bytes (D12), which a jump that is not taken leaves
there (D10). -/
theorem conditionalJumpTickSkipsItsImmediate : Obligations.ConditionalJumpTickSkipsItsImmediate := by
  intro s i d taken hs hcode htest
  have hstep := step_of_codeAt hs hcode
  rw [length_encode_of_jumpTest htest] at hstep
  obtain ⟨t, hexec, hnext, hcurrent, hregs, htarget, hram, -⟩ :=
    completes_of_jumpTest (s := { s.broadcast with pcNext := s.pcNext + 5 }) htest
  exact ⟨t, hstep.trans hexec, hnext, hcurrent, hregs, htarget, hram⟩
end

section
/-! PROOFS. The zero-operand instructions (spec/47_alu_zero_operand.md). Each applies one primitive to `$TARGET`
(`targetPrimitive`), so first what each primitive makes of a view; the one word from which a step of one leaves the
signed range is the only fact of arithmetic. -/

namespace Sys2Proof.Machine
open Sys2Proof.Statement

/-! ### The exact result of a step of one (R163, R164) -/

theorem outside32_toInt_add_one (v : Word) : outside32 (v.toInt + 1) = decide (v = 0x7FFFFFFF#32) := by
  have hlow : -2 ^ 31 ≤ v.toInt := v.le_toInt
  have hhigh : v.toInt < 2 ^ 31 := v.toInt_lt
  have htop : v = 0x7FFFFFFF#32 ↔ v.toInt = 2147483647 := BitVec.toInt_inj.symm
  rw [outside32, decide_eq_decide, htop]
  omega

theorem outside32_toInt_sub_one (v : Word) : outside32 (v.toInt - 1) = decide (v = 0x80000000#32) := by
  have hlow : -2 ^ 31 ≤ v.toInt := v.le_toInt
  have hhigh : v.toInt < 2 ^ 31 := v.toInt_lt
  have hbottom : v = 0x80000000#32 ↔ v.toInt = -2147483648 := BitVec.toInt_inj.symm
  rw [outside32, decide_eq_decide, hbottom]
  omega

/-! ### Each primitive without an operand of the instruction (R161, R163, R164, R167, R168) -/

section
variable (x : Register)

theorem Reg.complement_eq_clean_view : x.complement = clean (~~~x.view) := by
  rw [Reg.complement_eq, Reg.view_eq_acc, clean]

theorem Reg.negate_eq_clean_view : x.negate = clean (-x.view) := by
  rw [Reg.negate_eq, Reg.view_eq_acc, clean]

theorem Reg.addTo_one : x.addTo 1 = ⟨x.view + 1, decide (x.view = 0x7FFFFFFF#32), false⟩ := by
  rw [← outside32_toInt_add_one]
  exact x.addTo_toInt 1

theorem Reg.subtract_one : x.subtract 1 = ⟨x.view - 1, decide (x.view = 0x80000000#32), false⟩ := by
  rw [← outside32_toInt_sub_one]
  exact x.subtract_toInt 1

end

end Sys2Proof.Machine

open Sys2Proof Sys2Proof.Machine Sys2Proof.Statement

/-- Settles O13: COM applies `complement` and NEG applies `negate` (D9), and neither primitive reports anything. -/
theorem comAndNegClearFlags : Obligations.ComAndNegClearFlags :=
  fun s =>
    ⟨⟨rfl, completes_of_targetPrimitive rfl s.targetReg.complement_eq_clean_view⟩,
      ⟨rfl, completes_of_targetPrimitive rfl s.targetReg.negate_eq_clean_view⟩⟩

/-- Settles O14: INC applies `addTo(1)` (D9), whose exact sum is out of range for the greatest word alone. -/
theorem incCarriesOnlyAtTheTop : Obligations.IncCarriesOnlyAtTheTop :=
  fun s => ⟨rfl, completes_of_targetPrimitive rfl s.targetReg.addTo_one⟩

/-- Settles O15: DEC applies `subtract(1)`, whose exact difference is out of range for the least word alone; CLR and
UNO apply `set` (D9), which stores its word with both flags clear. -/
theorem decClrAndUno : Obligations.DecClrAndUno :=
  fun s =>
    ⟨⟨rfl, completes_of_targetPrimitive rfl s.targetReg.subtract_one⟩,
      ⟨rfl, completes_of_targetPrimitive rfl (Reg.set_toInt 0#32)⟩,
      ⟨rfl, completes_of_targetPrimitive rfl (Reg.set_toInt 1#32)⟩⟩
end

section
/-! PROOFS. NOP, RST and HLT (spec/48_system.md). Each is one state operation; what the devices of RST and the run bit
of HLT come to follows from the devices that are there and from `tickHappensExactlyWhileRunning`. -/

namespace Sys2Proof.Machine

section
variable {s : State} {k : Nat} {d : Device} {st : DevState}

/-- A device that is there has a record and a state (R36, R70). -/
theorem State.device?_eq_some_iff :
    s.device? k = some (d, st) ↔ s.platform.devices[k]? = some d ∧ s.dev[k]? = some st := by
  unfold State.device?
  cases s.platform.devices[k]? <;> cases s.dev[k]? <;> simp

theorem State.resetCore_dev_of_device? (h : s.device? k = some (d, st)) : s.resetCore.dev[k]? = some (d.reset st) := by
  obtain ⟨hd, hst⟩ := State.device?_eq_some_iff.mp h
  simp [List.getElem?_zipWith, hd, hst]

end

end Sys2Proof.Machine

open Sys2Proof Sys2Proof.Machine Sys2Proof.Statement

/-- Settles O24: NOP answers the state it is given. -/
theorem nopChangesNothing : Obligations.NopChangesNothing :=
  fun _ => ⟨rfl, rfl⟩

/-- Settles O25: RST is `resetCore`, which clears the register file and calls each device's reset handler. -/
theorem rstResetsAllButRam : Obligations.RstResetsAllButRam :=
  fun s => ⟨rfl, s.resetCore, rfl, State.reg_cleared s.resetCore rfl, rfl, rfl, rfl,
    fun _ _ _ hd => State.resetCore_dev_of_device? hd, rfl, rfl, fun _ => rfl, rfl⟩

/-- Settles O26: the step halts the state past the one byte of HLT; with the clock stopped there is no tick, and a
start, there being no fatal error, changes the run bit alone. -/
theorem hltStopsTheClockAfterItsTick : Obligations.HltStopsTheClockAfterItsTick := by
  refine ⟨rfl, fun s => ⟨s.halt, rfl, rfl, fun _ => rfl, rfl, ⟨rfl, rfl⟩, fun _ => rfl, rfl, rfl, rfl⟩,
    fun s hs hcode => ?_⟩
  have ⟨_, hfatal, _⟩ := hs
  have hstep : step s = .next s.broadcast.halt := step_of_codeAt hs hcode
  obtain ⟨-, hstopped, -, -, -, hstart⟩ := tickHappensExactlyWhileRunning s.broadcast.halt
  obtain ⟨u, hu, hrunning, -, -, ⟨-, hnext⟩, -⟩ := hstart hfatal
  exact ⟨_, hstep, rfl, hfatal, rfl, rfl, fun _ => rfl, fun _ => rfl, rfl, by simp [State.normalEnd, hfatal],
    hstopped hfatal rfl, u, hu, hrunning, hnext⟩
end

section
/-! PROOFS. Interrupts and fatal errors (spec/60_exceptions.md). First which source the arbiter takes, then the state
that the entry of a source leaves (`State.entered`), to which a tick that takes an interrupt comes down. -/

namespace Sys2Proof.Machine
open Sys2Proof.Statement

/-! ### Arbitration (R269, R270) -/

section
variable {s : State} {j k : Nat}

theorem lt_of_sourcePending (h : s.sourcePending k = true) : k < s.platform.devices.length := by
  obtain ⟨d, st, -, -, hd, -⟩ := State.sourcePending_cases h
  obtain ⟨hrecord, -⟩ := State.device?_eq_some_iff.mp hd
  obtain ⟨hlt, -⟩ := List.getElem?_eq_some_iff.mp hrecord
  exact hlt

theorem Platform.mem_scanList {p : Platform} (h : k < p.devices.length) : k ∈ Platform.scanList p :=
  List.mem_append_right _ (List.mem_range.mpr h)

/-- Every source is scanned, whatever the scan order lists (D15). -/
theorem arbitrate_eq_none_iff : s.arbitrate = none ↔ ∀ k, s.sourcePending k = false := by
  simp only [State.arbitrate, List.find?_eq_none, ← Bool.not_eq_true]
  exact ⟨fun h k hpending => h k (Platform.mem_scanList (lt_of_sourcePending hpending)) hpending, fun h k _ => h k⟩

theorem not_sourcePending_of_lt (horder : s.platform.scanOrder = []) (h : s.arbitrate = some k) (hj : j < k) :
    s.sourcePending j = false := by
  rw [State.arbitrate, Platform.scanList, horder, List.nil_append, List.find?_range_eq_some] at h
  obtain ⟨-, -, hfirst⟩ := h
  simpa using hfirst j hj

theorem arbitrate_eq_some_of_only (h : ∀ j, s.sourcePending j = decide (j = k)) : s.arbitrate = some k := by
  cases ha : s.arbitrate with
  | none => simpa [h k] using arbitrate_eq_none_iff.mp ha k
  | some j => simpa [h j] using State.arbitrate_some ha

end

/-! ### Interrupt entry (R272) -/

/-- The state that an interrupt entry leaves when the source `k` answers the vector `vec` and then remembers `inner`:
`$RETURN` holds the `next` that the arbiter found (D13). -/
def State.entered (s : State) (k : Nat) (vec : Word) (inner : Nat) : State :=
  ((s.setValue returnIndex s.pcNext.toInt).setDev k ⟨false, inner⟩).jump vec

theorem State.entered_reg_return (s : State) (k : Nat) (vec : Word) (inner : Nat) :
    (s.entered k vec inner).reg returnIndex = clean s.pcNext := by
  obtain ⟨hreturn, -⟩ := onlyRegister_setValue s returnIndex s.pcNext
  exact hreturn

theorem State.entered_reg_ne (s : State) (k : Nat) (vec : Word) (inner : Nat) {p : Nibble} (hp : p ≠ returnIndex) :
    (s.entered k vec inner).reg p = s.reg p :=
  State.reg_setReg_ne s returnIndex p _ hp

/-- A tick that takes an interrupt is the entry of the chosen source, which answers a vector. -/
theorem step_of_takesInterrupt {s : State} {k : Nat} (h : TakesInterrupt s k) :
    ∃ d st vec inner, s.broadcast.device? k = some (d, st) ∧ st.pending = true ∧ d.vector st = some (vec, inner) ∧
      step s = .next (s.broadcast.entered k vec inner) := by
  obtain ⟨hrun, hfatal, harbitrate⟩ := h
  obtain ⟨d, st, vec, inner, hd, hpending, hv⟩ := State.sourcePending_cases (State.arbitrate_some harbitrate)
  refine ⟨d, st, vec, inner, hd, hpending, hv, ?_⟩
  rw [step_of_running hrun hfatal, afterBroadcast, harbitrate]
  exact congrArg _ (State.interruptEntry_eq hd hv)

/-! ### The return (R275) -/

theorem State.view_of_reg_clean {s : State} {r : Nibble} {v : Word} (h : s.reg r = clean v) : s.view r = v := by
  rw [State.view, h, Reg.view_eq_acc, clean]

/-- SEL r and then DEC leave the view of register r less one (R190, R243). -/
theorem State.view_decremented (s : State) (r : Nibble) :
    ((s.select r).setTarget ((s.select r).targetReg.subtract 1)).view r = s.view r - 1 := by
  obtain ⟨hvalue, -⟩ := onlyRegister_setTarget (s.select r) ((s.select r).targetReg.subtract 1)
  rw [State.select_target] at hvalue
  rw [State.view, hvalue, Reg.subtract_one, Reg.view_eq_acc]
  rfl

end Sys2Proof.Machine

open Sys2Proof Sys2Proof.Machine Sys2Proof.Statement

/-- Settles O33: all sources are scanned, and with no scan order in the order of the devices. -/
theorem arbiterTakesTheFirstPendingSource : Obligations.ArbiterTakesTheFirstPendingSource :=
  fun _ => ⟨arbitrate_eq_none_iff, fun _ => State.arbitrate_some,
    fun horder _ ha _ hj => not_sourcePending_of_lt horder ha hj⟩

/-- Settles O35: the tick is the entry of the chosen source, after the broadcast. -/
theorem interruptEntryFrame : Obligations.InterruptEntryFrame := by
  intro s k h
  obtain ⟨d, st, vec, inner, hd, hpending, hv, hstep⟩ := step_of_takesInterrupt h
  obtain ⟨hrun, hfatal, -⟩ := h
  exact ⟨_, d, st, vec, inner, hstep, hd, hpending, hv, State.entered_reg_return _ k vec inner, rfl, rfl, rfl,
    fun _ hp => State.entered_reg_ne _ k vec inner hp, rfl, fun _ => rfl, hrun, hfatal, rfl⟩

/-- Settles O34: the only source pending is the one the arbiter takes. -/
theorem onePendingSourceIsVectored : Obligations.OnePendingSourceIsVectored := by
  intro s k d st hrun hfatal honly hd
  obtain ⟨d', st', vec, inner, hd', -, hv, hstep⟩ :=
    step_of_takesInterrupt ⟨hrun, hfatal, arbitrate_eq_some_of_only honly⟩
  cases hd.symm.trans hd'
  exact ⟨_, vec, inner, hstep, hv, State.view_of_reg_clean (State.entered_reg_return _ k vec inner), rfl, rfl,
    fun _ hp => State.entered_reg_ne _ k vec inner hp, rfl, fun _ => rfl⟩

/-- Settles O36: the entry saves A + 1, to which a bare JR 15 goes, and DEC takes the one away again. -/
theorem handlerReturnAddresses : Obligations.HandlerReturnAddresses := by
  intro s k h
  obtain ⟨_, _, vec, inner, -, -, -, hstep⟩ := step_of_takesInterrupt h
  have hview := State.view_of_reg_clean (State.entered_reg_return s.broadcast k vec inner)
  refine ⟨_, hstep, ⟨_, rfl, hview⟩, _, _, _, rfl, rfl, rfl, ?_, rfl⟩
  calc State.view _ 15 = (s.broadcast.entered k vec inner).view 15 - 1 := State.view_decremented _ 15
    _ = s.pcNext + 1 - 1 := congrArg (· - 1) hview
    _ = s.pcNext := BitVec.add_sub_cancel _ _

/-- Settles O37: the first entry keeps the clock running and no error recorded, so the second tick is an entry too,
made in the state that the first one left. -/
theorem secondEntryOverwritesReturn : Obligations.SecondEntryOverwritesReturn := by
  intro s t k k' h ht harbitrate
  obtain ⟨d, st, vec, inner, hd, -, hv, hstep⟩ := step_of_takesInterrupt h
  cases ht.symm.trans hstep
  obtain ⟨hrun, hfatal, -⟩ := h
  have hagain : TakesInterrupt (s.broadcast.entered k vec inner) k' := ⟨hrun, hfatal, harbitrate⟩
  obtain ⟨d', st', vec', inner', hd', -, hv', hstep'⟩ := step_of_takesInterrupt hagain
  exact ⟨_, d, st, vec, inner, d', st', vec', inner', hd, hv, hd', hv', State.entered_reg_return _ k vec inner, rfl,
    hstep', State.entered_reg_return _ k' vec' inner', rfl, rfl, rfl,
    fun _ hp => (State.entered_reg_ne _ k' vec' inner' hp).trans (State.entered_reg_ne _ k vec inner hp), rfl,
    fun _ => rfl⟩

/-- Settles O39: a tick is a step, which a recorded error stops; a start asks for no error; power-on reset answers the
power-on state of the same platform. -/
theorem fatalErrorIsSticky : Obligations.FatalErrorIsSticky := by
  intro s e h
  obtain ⟨-, -, hfault, -⟩ := tickHappensExactlyWhileRunning s
  exact ⟨hfault e h, by simp only [environment, h], ⟨s.halt, rfl, h⟩, powerOn s.platform, rfl, rfl, rfl⟩
end

section
/-! PROOFS. The refusals of bring-up (spec/70_reset_and_hazards.md R303). -/

namespace Sys2Proof.Machine
open Sys2Proof.Statement

/-- The checks of R303 in arithmetic; legal ranges are not empty, so the test of disjointness is R73's condition. -/
theorem Platform.wellFormed_iff (p : Platform) : p.wellFormed = true ↔
    1 ≤ p.ramSize ∧ p.ramSize ≤ 2 ^ 32 ∧ (∀ q ∈ p.ranges, 1 ≤ q.2 ∧ q.1 + q.2 ≤ 2 ^ 32) ∧
      (p.ranges.Pairwise fun q r => ¬ shareAddress q r) ∧ p.image.length ≤ p.ramSize := by
  have hlegal : p.ranges.all Range.legal = true ↔ ∀ q ∈ p.ranges, 1 ≤ q.2 ∧ q.1 + q.2 ≤ 2 ^ 32 := by
    simp [Range.legal]
  simp only [Platform.wellFormed, Platform.hasRam, Platform.ramFits, Platform.imageFits, Bool.and_eq_true,
    decide_eq_true_eq, hlegal, and_assoc]
  refine and_congr_right fun _ => and_congr_right fun _ => and_congr_right fun hranges => and_congr_left fun _ => ?_
  exact rangesDisjoint_iff fun q hq => (hranges q hq).1

theorem exists_bringUp_error_iff (p : Platform) : (∃ e, bringUp p = .error e) ↔ ¬ p.wellFormed = true := by
  rw [← configurationError_eq_none_iff]
  unfold bringUp
  cases configurationError p <;> simp

end Sys2Proof.Machine

open Sys2Proof Sys2Proof.Machine Sys2Proof.Statement

/-- Settles O60: bring-up refuses what is not well formed, and each check of R303 fails in its own way. -/
theorem bringUpRefusals : Obligations.BringUpRefusals := by
  intro p
  rw [exists_bringUp_error_iff, Platform.wellFormed_iff]
  simp only [not_and_or, not_forall, exists_prop, Nat.not_le, Nat.lt_one_iff]
end
